-- ==== Sys2Proof/Word.lean ====
section
/-! DEFINITION. The widths of the block (00_scope.md R9): byte, operation word, result. -/

namespace Sys2Proof

/-- `u8`: a data byte, a CRC value, a session index (00_scope.md R9, R11). -/
abbrev Byte := BitVec 8

/-- The 32-bit operation word (30_encoding.md R60). -/
abbrev Word := BitVec 32

/-- `u64`: an operation result, a field code, a binary64 encoding (00_scope.md R9). -/
abbrev Res := BitVec 64

end Sys2Proof
end

