-- ==== Sys2Proof/Syntax.lean ====
section
/-! DEFINITION. The operations, one constructor per row of spec/opcode_table.json (30_encoding.md R63). Operand
types are the fields' widths (R64), so every term is an operation some word encodes. -/

namespace Sys2Proof

/-- The 22 operations of 30_encoding.md R63 with their operands (R64). -/
inductive Instr where
  /-- `SYS.NOP` (44_system.md R182) -/
  | sysNop
  /-- `SYS.RDSTAT` (44_system.md R180) -/
  | sysRdstat
  /-- `SYS.CLRSTAT` (44_system.md R181) -/
  | sysClrstat
  /-- `CRC.CLR` (40_crc.md R95) -/
  | crcClr
  /-- `CRC.BYTE B` (40_crc.md R96) -/
  | crcByte (b : Byte)
  /-- `CRC.RD` (40_crc.md R97) -/
  | crcRd
  /-- `ENC.HDR L` (41_encoder.md R112) -/
  | encHdr (len : BitVec 16)
  /-- `ENC.BYTE B` (41_encoder.md R113) -/
  | encByte (b : Byte)
  /-- `ENC.ABORT` (41_encoder.md R114) -/
  | encAbort
  /-- `ENC.RD` (41_encoder.md R115) -/
  | encRd
  /-- `RSM.FIRST CH, B` (42_reassembler.md R134) -/
  | rsmFirst (ch b : Byte)
  /-- `RSM.NEXT CH, B` (42_reassembler.md R135) -/
  | rsmNext (ch b : Byte)
  /-- `RSM.CLR CH` (42_reassembler.md R139) -/
  | rsmClr (ch : Byte)
  /-- `RSM.RD CH` (42_reassembler.md R137) -/
  | rsmRd (ch : Byte)
  /-- `RSM.RDBUF CH, k` (42_reassembler.md R138) -/
  | rsmRdbuf (ch k : Byte)
  /-- `DEC.RDVC CH` (43_decoder.md R161) -/
  | decRdvc (ch : Byte)
  /-- `DEC.RDIC CH` (43_decoder.md R162) -/
  | decRdic (ch : Byte)
  /-- `DEC.RDWC CH` (43_decoder.md R163) -/
  | decRdwc (ch : Byte)
  /-- `DEC.RDVF CH` (43_decoder.md R164) -/
  | decRdvf (ch : Byte)
  /-- `DEC.RDIF CH` (43_decoder.md R165) -/
  | decRdif (ch : Byte)
  /-- `DEC.RDWF CH` (43_decoder.md R166) -/
  | decRdwf (ch : Byte)
  /-- `DEC.RDCNT CH` (43_decoder.md R167) -/
  | decRdcnt (ch : Byte)
deriving DecidableEq, Repr

/-- The session index an operation names: the `CH` operand of `RSM.*` and `DEC.*` (R64, R65). -/
def Instr.session? : Instr → Option Byte
  | .sysNop | .sysRdstat | .sysClrstat => none
  | .crcClr | .crcByte _ | .crcRd => none
  | .encHdr _ | .encByte _ | .encAbort | .encRd => none
  | .rsmFirst ch _ | .rsmNext ch _ | .rsmClr ch | .rsmRd ch | .rsmRdbuf ch _ => some ch
  | .decRdvc ch | .decRdic ch | .decRdwc ch => some ch
  | .decRdvf ch | .decRdif ch | .decRdwf ch | .decRdcnt ch => some ch

end Sys2Proof
end

