-- ==== Sys2Proof/Decode.lean ====
section
/-! DEFINITION. Decoding and encoding of the operation word (30_encoding.md R60 to R66). The word crosses the port
whole, with no byte order (20_memory.md R42), so `decode` is total on all 2^32 words and names why it refuses one. -/

namespace Sys2Proof

/-! ## Fields (R60, R61) -/

/-- `UNIT = w[31:28]` (R61). -/
def unitOf (w : Word) : BitVec 4 := w.extractLsb' 28 4
/-- `FUNC = w[27:24]` (R61). -/
def funcOf (w : Word) : BitVec 4 := w.extractLsb' 24 4
/-- `CH = w[23:16]` (R61). -/
def chOf (w : Word) : Byte := w.extractLsb' 16 8
/-- `IMM = w[15:0]` (R61); it is `L` of `ENC.HDR` (R64). -/
def immOf (w : Word) : BitVec 16 := w.extractLsb' 0 16
/-- `B = w[7:0]` (R61, R64). -/
def byteOf (w : Word) : Byte := w.extractLsb' 0 8

/-- The word with the four fields of R60. -/
def mkWord (unit func : BitVec 4) (ch : Byte) (imm : BitVec 16) : Word := unit ++ func ++ ch ++ imm

/-! ## The opcode map (R63) -/

/-- One row of the opcode map of R63; `build` assembles the operands from the word's free fields (R64). -/
structure Row where
  mnemonic : String
  unit : BitVec 4
  func : BitVec 4
  pat : Word
  mask : Word
  build : Word → Instr

/-- The `SYS` rows of R63. -/
def sysRows : List Row :=
  [ ⟨"SYS.NOP",     0, 0, 0x00000000#32, 0xFFFFFFFF#32, fun _ => .sysNop⟩,
    ⟨"SYS.RDSTAT",  0, 1, 0x01000000#32, 0xFFFFFFFF#32, fun _ => .sysRdstat⟩,
    ⟨"SYS.CLRSTAT", 0, 2, 0x02000000#32, 0xFFFFFFFF#32, fun _ => .sysClrstat⟩ ]

/-- The `CRC` rows of R63. -/
def crcRows : List Row :=
  [ ⟨"CRC.CLR",  1, 0, 0x10000000#32, 0xFFFFFFFF#32, fun _ => .crcClr⟩,
    ⟨"CRC.BYTE", 1, 1, 0x11000000#32, 0xFFFFFF00#32, fun w => .crcByte (byteOf w)⟩,
    ⟨"CRC.RD",   1, 2, 0x12000000#32, 0xFFFFFFFF#32, fun _ => .crcRd⟩ ]

/-- The `ENC` rows of R63. -/
def encRows : List Row :=
  [ ⟨"ENC.HDR",   2, 0, 0x20000000#32, 0xFFFF0000#32, fun w => .encHdr (immOf w)⟩,
    ⟨"ENC.BYTE",  2, 1, 0x21000000#32, 0xFFFFFF00#32, fun w => .encByte (byteOf w)⟩,
    ⟨"ENC.ABORT", 2, 2, 0x22000000#32, 0xFFFFFFFF#32, fun _ => .encAbort⟩,
    ⟨"ENC.RD",    2, 3, 0x23000000#32, 0xFFFFFFFF#32, fun _ => .encRd⟩ ]

/-- The `RSM` rows of R63. -/
def rsmRows : List Row :=
  [ ⟨"RSM.FIRST", 3, 0, 0x30000000#32, 0xFF00FF00#32, fun w => .rsmFirst (chOf w) (byteOf w)⟩,
    ⟨"RSM.NEXT",  3, 1, 0x31000000#32, 0xFF00FF00#32, fun w => .rsmNext (chOf w) (byteOf w)⟩,
    ⟨"RSM.CLR",   3, 2, 0x32000000#32, 0xFF00FFFF#32, fun w => .rsmClr (chOf w)⟩,
    ⟨"RSM.RD",    3, 3, 0x33000000#32, 0xFF00FFFF#32, fun w => .rsmRd (chOf w)⟩,
    ⟨"RSM.RDBUF", 3, 4, 0x34000000#32, 0xFF00FF00#32, fun w => .rsmRdbuf (chOf w) (byteOf w)⟩ ]

/-- The `DEC` rows of R63. -/
def decRows : List Row :=
  [ ⟨"DEC.RDVC",  4, 0, 0x40000000#32, 0xFF00FFFF#32, fun w => .decRdvc (chOf w)⟩,
    ⟨"DEC.RDIC",  4, 1, 0x41000000#32, 0xFF00FFFF#32, fun w => .decRdic (chOf w)⟩,
    ⟨"DEC.RDWC",  4, 2, 0x42000000#32, 0xFF00FFFF#32, fun w => .decRdwc (chOf w)⟩,
    ⟨"DEC.RDVF",  4, 3, 0x43000000#32, 0xFF00FFFF#32, fun w => .decRdvf (chOf w)⟩,
    ⟨"DEC.RDIF",  4, 4, 0x44000000#32, 0xFF00FFFF#32, fun w => .decRdif (chOf w)⟩,
    ⟨"DEC.RDWF",  4, 5, 0x45000000#32, 0xFF00FFFF#32, fun w => .decRdwf (chOf w)⟩,
    ⟨"DEC.RDCNT", 4, 6, 0x46000000#32, 0xFF00FFFF#32, fun w => .decRdcnt (chOf w)⟩ ]

/-- The complete opcode map of R63. -/
def opcodeTable : List Row := sysRows ++ crcRows ++ encRows ++ rsmRows ++ decRows

/-! ## Decoding (R63, R66, R191) -/

/-- Why a word is illegal: the two conditions of R66. -/
inductive Illegal where
  /-- R66 (a): no row has the word's `UNIT` and `FUNC` -/
  | unassigned
  /-- R66 (b): a field the row does not use is nonzero -/
  | unusedField
deriving DecidableEq, Repr

/-- What a word decodes to: an operation, or the condition of R66 that makes it illegal. -/
inductive Decoded where
  | ok (i : Instr)
  | illegal (why : Illegal)
deriving DecidableEq, Repr

/-- The row with the word's `UNIT` and `FUNC` (R191, first check). -/
def rowOf (w : Word) : Option Row :=
  opcodeTable.find? (fun r => r.unit == unitOf w && r.func == funcOf w)

/-- The decode-level checks in the order of R191: the row of (`UNIT`, `FUNC`), then `w AND mask = match`. -/
def decode (w : Word) : Decoded :=
  match rowOf w with
  | none => .illegal .unassigned
  | some r => if w &&& r.mask = r.pat then .ok (r.build w) else .illegal .unusedField

/-! ## Encoding (R60, R63) -/

/-- A byte in `IMM[7:0]`, `IMM[15:8]` zero (R60). -/
def immByte (b : Byte) : BitVec 16 := 0#8 ++ b

/-- The word of an operation, from the unit and function codes of R62 and R63 and the operand fields of R64. -/
def encode : Instr → Word
  | .sysNop => mkWord 0 0 0 0
  | .sysRdstat => mkWord 0 1 0 0
  | .sysClrstat => mkWord 0 2 0 0
  | .crcClr => mkWord 1 0 0 0
  | .crcByte b => mkWord 1 1 0 (immByte b)
  | .crcRd => mkWord 1 2 0 0
  | .encHdr len => mkWord 2 0 0 len
  | .encByte b => mkWord 2 1 0 (immByte b)
  | .encAbort => mkWord 2 2 0 0
  | .encRd => mkWord 2 3 0 0
  | .rsmFirst ch b => mkWord 3 0 ch (immByte b)
  | .rsmNext ch b => mkWord 3 1 ch (immByte b)
  | .rsmClr ch => mkWord 3 2 ch 0
  | .rsmRd ch => mkWord 3 3 ch 0
  | .rsmRdbuf ch k => mkWord 3 4 ch (immByte k)
  | .decRdvc ch => mkWord 4 0 ch 0
  | .decRdic ch => mkWord 4 1 ch 0
  | .decRdwc ch => mkWord 4 2 ch 0
  | .decRdvf ch => mkWord 4 3 ch 0
  | .decRdif ch => mkWord 4 4 ch 0
  | .decRdwf ch => mkWord 4 5 ch 0
  | .decRdcnt ch => mkWord 4 6 ch 0

/-- The instruction the decoder reads from the `nbits` low bits of `w`, bits above them zero (the numbering of
spec/opcode_table.json, which for this block's one 32-bit word is the word's own). -/
def decodeTableWord (nbits w : Nat) : Option Instr :=
  match decode (BitVec.ofNat 32 (w % 2 ^ nbits)) with
  | .ok i => some i
  | .illegal _ => none

end Sys2Proof
end

