-- ==== Sys2Proof/Config.lean ====
section
/-! DEFINITION. The constants the source fixes (00_scope.md R7) and the parameters of a block instance
(00_scope.md R8). No value of the machine is left free by the spec (60_exceptions.md R195), so no opaque
constant stands here. -/

namespace Sys2Proof

/-- `HDR`, the first byte of every command frame (R7). -/
abbrev HDR : Byte := 0xAA#8
/-- `MARKER`, the start marker of a telemetry frame (R7). -/
abbrev MARKER : Byte := 0xAA#8
/-- `POLY`, the CRC-8 generator polynomial in normal form (R7). -/
abbrev POLY : Byte := 0x85#8
/-- `INIT`, the CRC register's initial value (R7). -/
abbrev INIT : Byte := 0x00#8
/-- `XOROUT`, the CRC's final XOR (R7). -/
abbrev XOROUT : Byte := 0x00#8
/-- `LEN_MAX`, the largest payload length of a command frame (R7). -/
abbrev LEN_MAX : Nat := 65535
/-- `FRAME_LEN`, the telemetry frame's size in bytes (R7). -/
abbrev FRAME_LEN : Nat := 23
/-- `OFF_V`, the offset of the voltage field (R7). -/
abbrev OFF_V : Nat := 5
/-- `OFF_I`, the offset of the current field (R7). -/
abbrev OFF_I : Nat := 11
/-- `OFF_W`, the offset of the wattage field (R7). -/
abbrev OFF_W : Nat := 17
/-- `FIELD_LEN`, the bytes of one field (R7). -/
abbrev FIELD_LEN : Nat := 6
/-- The exponent of `SCALE_V` and `SCALE_W` = 2^24 (R7). -/
abbrev LOG_SCALE_VW : Nat := 24
/-- The exponent of `SCALE_I` = 2^30 (R7). -/
abbrev LOG_SCALE_I : Nat := 30
/-- `OPC_START`, the "start monitoring" payload (R7). -/
abbrev OPC_START : Byte := 0x08#8

/-- The parameters of one block instance, fixed for its lifetime (00_scope.md R8; 10_state.md, introduction).
`N_SESS` is the number of contexts State holds. -/
structure Config where
  /-- `TX_DEPTH`: capacity of the TX stream in bytes, `none` when unbounded. -/
  txDepth : Option Nat
  /-- `SMP_DEPTH`: capacity of the SMP stream in events, `none` when unbounded. -/
  smpDepth : Option Nat
  /-- `OP_LATENCY`: cycles an operation takes at the port; no rule depends on it and nothing reads it
  (70_reset_and_hazards.md R220; DESIGN CHOICE, log entry 11). -/
  opLatency : Nat
  /-- Which of the two conforming hold rules of 20_memory.md R46 the implementation uses: `false` holds for the
  room this operation needs, `true` for the worst case of the operation. -/
  worstCaseHold : Bool
deriving DecidableEq, Repr

/-- The ranges of 00_scope.md R8: `TX_DEPTH` is 4 or more or unbounded, `SMP_DEPTH` 1 or more or unbounded. -/
def Config.legal (c : Config) : Bool :=
  (match c.txDepth with | none => true | some d => decide (4 ≤ d)) &&
  (match c.smpDepth with | none => true | some d => decide (1 ≤ d))

/-- The instance of the spec's test vectors (95_test_vectors.md, conventions): unbounded streams.
DESIGN CHOICE, log entry 1: claims are stated for every `Config`. -/
def Config.standard : Config :=
  { txDepth := none, smpDepth := none, opLatency := 1, worstCaseHold := false }

/-- `N_SESS` of the machine of `State.reset`: the value of the spec's test vectors. DESIGN CHOICE, log entry 1. -/
def Config.standardSessions : Nat := 2

end Sys2Proof
end

