-- ==== Sys2Proof/Machine/Crc8.lean ====
section
/-! DEFINITION. The CRC-8 function (40_crc.md R90, R91), shared by the CRC unit and the encoder. -/

namespace Sys2Proof.Machine

/-- One shift step of R90: shift left, XOR in `POLY` when the bit shifted out is 1. -/
def crcShift (x : Byte) : Byte := if x.getLsbD 7 then (x <<< 1) ^^^ POLY else x <<< 1

/-- `n` shift steps. -/
def crcShifts : Nat → Byte → Byte
  | 0, x => x
  | n + 1, x => crcShifts n (crcShift x)

/-- `crc8_byte(c, b)` (R90). -/
def crc8Byte (c b : Byte) : Byte := crcShifts 8 (c ^^^ b)

/-- `crc8(P)` (R91). -/
def crc8 (p : List Byte) : Byte := (p.foldl crc8Byte INIT) ^^^ XOROUT

end Sys2Proof.Machine
end

