-- ==== Sys2Proof/Machine/State.lean ====
section
/-! DEFINITION. The block's state, every element of 10_state.md as plain data, its reset (R33), and the reasons a
step could stop. Below the block's own elements stand the fields that hold the host, the environment (DESIGN CHOICE, log entry 3). -/

namespace Sys2Proof.Machine

/-- The block never stops: "the block neither stops nor stalls" on an error (60_exceptions.md R196) and "Every word
has a defined outcome" (R195). Nobody raises a fault, so there is no constructor; safe (log entry 6). -/
inductive Fault : Type
deriving DecidableEq, Repr

/-- Reasons a step could be refused. -/
inductive Refusal where
  /-- Raised by `exec`'s arm of an instruction that has no meaning yet; no arm of this model does. Safe. -/
  | notModelled (mnemonic : String)
deriving DecidableEq, Repr

/-- The error codes of 60_exceptions.md R190. They are data of the block, never a stop (R196). -/
inductive ErrCode where
  /-- `E_ILLEGAL`, code 1: raised by any illegal word -/
  | illegal
  /-- `E_BADCH`, code 2: raised by a legal `RSM.*` or `DEC.*` word with `CH >= N_SESS` -/
  | badCh
  /-- `E_ENC_BUSY`, code 3: raised by `ENC.HDR` while a frame is open -/
  | encBusy
  /-- `E_ENC_IDLE`, code 4: raised by `ENC.BYTE` while no frame is open -/
  | encIdle
deriving DecidableEq, Repr

/-- One session context: the reassembler's and the decoder's elements of session `ch` (10_state.md R27, R29). -/
structure Session where
  /-- `rsm_buf[ch]` -/
  buf : List Byte
  /-- `rsm_drop[ch]` -/
  drop : Bool
  /-- `dec_vc[ch]` -/
  vc : Res
  /-- `dec_ic[ch]` -/
  ic : Res
  /-- `dec_wc[ch]` -/
  wc : Res
  /-- `dec_cnt[ch]` -/
  cnt : BitVec 32
deriving DecidableEq, Repr

/-- The record of the SMP stream (20_memory.md R45). -/
structure SampleEvent where
  ch : Byte
  frame : List Byte
  vcode : Res
  icode : Res
  wcode : Res
  vbits : Res
  ibits : Res
  wbits : Res
deriving DecidableEq, Repr

/-- What the host does in one step (70_reset_and_hazards.md R218). -/
inductive HostAct where
  /-- the operation port moves: the block accepts the offered word, or holds it, or is idle when none is offered -/
  | operate
  /-- the host takes a byte from the head of TX (20_memory.md R44) -/
  | takeTx
  /-- the host takes an event from the head of SMP (20_memory.md R45) -/
  | takeSmp
  /-- reset is asserted (R210, R211); `again` says whether the host offers the word on the port once more after it -/
  | reset (again : Bool)
deriving DecidableEq, Repr

/-- The state `S` of 10_state.md, then the host's side. -/
structure State where
  /-- the parameters of this instance (00_scope.md R8); no step writes them -/
  cfg : Config
  /-- `STATUS[3:0]`, the sticky error bits (R23) -/
  sticky : BitVec 4
  /-- `STATUS[15:8]`, `LAST_ERR` (R23) -/
  lastErr : Byte
  /-- `crc_reg` (R25) -/
  crcReg : Byte
  /-- `enc_open` (R26); `STATUS[16]` mirrors it -/
  encOpen : Bool
  /-- `enc_rem` (R26) -/
  encRem : BitVec 16
  /-- `enc_crc` (R26) -/
  encCrc : Byte
  /-- the session contexts, index `ch`; there are `N_SESS` of them (R27, R29; DESIGN CHOICE, log entry 2) -/
  sess : List Session
  /-- `tx`: the TX bytes emitted and not yet taken, oldest first (R31) -/
  tx : List Byte
  /-- `smp`: the sample events emitted and not yet taken, oldest first (R31) -/
  smp : List SampleEvent
  /-- the results returned on the result port, one per accepted operation, oldest first (R22); DEDUCED, log entry 4 -/
  results : List Res
  /-- host: the words it will offer, in order; the head is on the operation port -/
  ops : List Word
  /-- host: what it does in the coming steps; when empty, every step is `operate` -/
  acts : List HostAct
  /-- host: the TX bytes it has taken, oldest first -/
  txTaken : List Byte
  /-- host: the sample events it has taken, oldest first -/
  smpTaken : List SampleEvent
deriving DecidableEq, Repr

/-- A context after reset (R33): no prior accumulation exists (R34). -/
def Session.reset : Session :=
  { buf := [], drop := false, vc := 0, ic := 0, wc := 0, cnt := 0 }

/-- An instance with `nSess` contexts and parameters `cfg`, right after reset (R33), with no host input yet;
`crc_reg` is `INIT` and every buffer is empty, as the source anchors them (R34). -/
def State.init (nSess : Nat) (cfg : Config) : State :=
  { cfg := cfg, sticky := 0, lastErr := 0, crcReg := INIT, encOpen := false, encRem := 0, encCrc := 0,
    sess := List.replicate nSess Session.reset, tx := [], smp := [], results := [],
    ops := [], acts := [], txTaken := [], smpTaken := [] }

/-- The machine right after reset (R33), with the parameters of the spec's test vectors (log entry 1). -/
def State.reset : State := State.init Config.standardSessions Config.standard

end Sys2Proof.Machine
end

