-- ==== Sys2Proof/Machine/Flags.lean ====
section
/-! DEFINITION. The status register and the error codes (10_state.md R23; 60_exceptions.md R190). The block has no
other flags (10_state.md R32). -/

namespace Sys2Proof.Machine

/-- The code of an error, as `LAST_ERR` records it (R190). -/
def ErrCode.code : ErrCode → Byte
  | .illegal => 1
  | .badCh => 2
  | .encBusy => 3
  | .encIdle => 4

/-- The sticky bit of an error: `STATUS[code - 1]` (R190, R192). -/
def ErrCode.bit (e : ErrCode) : BitVec 4 := 1#4 <<< (e.code.toNat - 1)

/-- A flag as one bit. -/
def flag (b : Bool) : BitVec 1 := BitVec.ofBool b

/-- `STATUS`, field by field as R23 lays it out: bits 31:17 reserved, `ENC_OPEN`, `LAST_ERR`, bits 7:4 reserved,
the sticky bits. `ENC_OPEN` is live: it is `enc_open` itself (R26; DEDUCED, log entry 12). -/
def State.status (s : State) : BitVec 32 := 0#15 ++ flag s.encOpen ++ s.lastErr ++ 0#4 ++ s.sticky

end Sys2Proof.Machine
end

