-- ==== Sys2Proof/Machine/Ops.lean ====
section
/-! DEFINITION. The shared operations over the state: the pseudocode primitives of 00_scope.md R12, the one error
effect (60_exceptions.md R192: the block's only exception-like operation; there is no return from it, R197), the
stream transfers of 20_memory.md R44 and R45, and reset (70_reset_and_hazards.md R210). The block has no memory
(20_memory.md R40; DEDUCED, log entry 5), so there is no read or write of one. -/

namespace Sys2Proof.Machine

/-- `res <- v`: the accepted operation returns `v` on the result port (10_state.md R22). -/
def State.ret (v : Res) (s : State) : State := { s with results := s.results ++ [v] }

/-- `emit_tx(b)` (20_memory.md R44). -/
def State.emitTx (b : Byte) (s : State) : State := { s with tx := s.tx ++ [b] }

/-- `emit_smp(e)` (20_memory.md R45). -/
def State.emitSmp (e : SampleEvent) (s : State) : State := { s with smp := s.smp ++ [e] }

/-- The sticky bit of the code and `LAST_ERR` (60_exceptions.md R192). -/
def State.noteError (e : ErrCode) (s : State) : State :=
  { s with sticky := s.sticky ||| e.bit, lastErr := e.code }

/-- `raise E(code)`: the status is noted, `res` is 0, nothing else changes (60_exceptions.md R192). -/
def State.raise (e : ErrCode) (s : State) : State := (s.noteError e).ret 0

/-- `STATUS[3:0] <- 0; STATUS[15:8] <- 0` (44_system.md R181). -/
def State.clearErrors (s : State) : State := { s with sticky := 0, lastErr := 0 }

/-- `S.crc_reg <- v`. -/
def State.setCrc (v : Byte) (s : State) : State := { s with crcReg := v }

/-- `S.enc_open`, `S.enc_rem` and `S.enc_crc` written together. -/
def State.setEnc (opened : Bool) (rem : BitVec 16) (crc : Byte) (s : State) : State :=
  { s with encOpen := opened, encRem := rem, encCrc := crc }

/-- Session context `ch` replaced by `c`; no other context changes (10_state.md R30). -/
def State.setCtx (ch : Byte) (c : Session) (s : State) : State := { s with sess := s.sess.set ch.toNat c }

/-- The word at the head of the host's queue leaves the operation port: it is accepted, or no longer offered. -/
def State.popOp (s : State) : State := { s with ops := s.ops.drop 1 }

/-- The host's action of this step is used up. -/
def State.popAct (s : State) : State := { s with acts := s.acts.drop 1 }

/-- The host takes the byte at the head of TX (20_memory.md R44); nothing to take from an empty stream
(DESIGN CHOICE, log entry 7). -/
def State.takeTx (s : State) : State := { s with tx := s.tx.drop 1, txTaken := s.txTaken ++ s.tx.take 1 }

/-- The host takes the event at the head of SMP (20_memory.md R45); nothing to take from an empty stream
(log entry 7). -/
def State.takeSmp (s : State) : State := { s with smp := s.smp.drop 1, smpTaken := s.smpTaken ++ s.smp.take 1 }

/-- Every element of the block takes its value of 10_state.md R33 and R34; stream contents are discarded
(70_reset_and_hazards.md R210). The parameters and what the host already has are not the block's to reset. -/
def State.resetBlock (s : State) : State :=
  { s with sticky := 0, lastErr := 0, crcReg := INIT, encOpen := false, encRem := 0, encCrc := 0,
           sess := s.sess.map (fun _ => Session.reset), tx := [], smp := [] }

end Sys2Proof.Machine
end

