-- ==== Sys2Proof/Machine/Operands.lean ====
section
/-! DEFINITION. The operand forms at the machine: the session operand `CH` with its check (30_encoding.md R65;
60_exceptions.md R191). `B`, `k` and `L` are plain immediates, taken from the word by Decode.lean (R64). -/

namespace Sys2Proof.Machine

/-- The three outcomes of an operation. -/
abbrev Outcome := Host.Outcome State Fault Refusal

/-- `N_SESS`: the number of session contexts this instance holds (00_scope.md R8). -/
def State.nSess (s : State) : Nat := s.sess.length

/-- Session context `ch` (10_state.md R27, R29). It is read only for `ch < N_SESS`; the value for any other index
is never used (`withSession`; log entry 9). -/
def State.ctx (s : State) (ch : Byte) : Session := s.sess.getD ch.toNat Session.reset

/-- `if CH >= N_SESS then raise E(E_BADCH)`, otherwise `k` on the context of `CH` (R191). -/
def withSession (ch : Byte) (s : State) (k : Session → State) : Outcome :=
  if ch.toNat < s.nSess then .next (k (s.ctx ch)) else .next (s.raise .badCh)

end Sys2Proof.Machine
end

