-- ==== Sys2Proof/Machine/Crc.lean ====
section
/-! DEFINITION. The CRC unit's operations (40_crc.md R95 to R97). -/

namespace Sys2Proof.Machine

/-- `CRC.CLR` (R95). -/
def execCrcClr (s : State) : Outcome := .next ((s.setCrc INIT).ret 0)

/-- `CRC.BYTE B` (R96). -/
def execCrcByte (b : Byte) (s : State) : Outcome := .next ((s.setCrc (crc8Byte s.crcReg b)).ret 0)

/-- `CRC.RD` (R97). -/
def execCrcRd (s : State) : Outcome := .next (s.ret ((s.crcReg ^^^ XOROUT).setWidth 64))

end Sys2Proof.Machine
end

