-- ==== Sys2Proof/Machine/Fixed.lean ====
section
/-! DEFINITION. The 48-bit little-endian fixed-point decoder (43_decoder.md R150 to R158). -/

namespace Sys2Proof.Machine

/-- `le48(f, o)`: the six bytes at `o`, the first one lowest, zero-extended to 64 bits (R151, R152).
Every frame decoded has 23 bytes; a byte a shorter list lacks reads as 0 (log entry 9). -/
def le48 (f : List Byte) (o : Nat) : Res :=
  (f.getD (o + 5) 0 ++ f.getD (o + 4) 0 ++ f.getD (o + 3) 0 ++
    f.getD (o + 2) 0 ++ f.getD (o + 1) 0 ++ f.getD o 0).setWidth 64

/-- `bits64(c, s)`: the binary64 encoding of `toF64(c) / 2^s` in the closed form of R156 (DEDUCED, log entry 13). -/
def bits64 (c : Res) (s : Nat) : Res :=
  if c = 0 then 0
  else
    let e := c.toNat.log2
    BitVec.ofNat 64 (((e + 1023 - s) <<< 52) ||| ((c.toNat <<< (52 - e)) &&& (2 ^ 52 - 1)))

/-- The six values `decode` returns, the three binary64 values as their encodings (R150). -/
structure Reading where
  vc : Res
  ic : Res
  wc : Res
  v : Res
  i : Res
  w : Res
deriving DecidableEq, Repr

/-- `decode(f)` (R150). -/
def decodeFrame (f : List Byte) : Reading :=
  { vc := le48 f OFF_V, ic := le48 f OFF_I, wc := le48 f OFF_W,
    v := bits64 (le48 f OFF_V) LOG_SCALE_VW,
    i := bits64 (le48 f OFF_I) LOG_SCALE_I,
    w := bits64 (le48 f OFF_W) LOG_SCALE_VW }

/-- The number a binary64 encoding stands for, `none` for an infinity or a NaN: sign bit 63, biased exponent 62:52,
fraction 51:0 (93_implementation_defined.md G3). The claims read decoded values through it. -/
def f64Value (x : Res) : Option Rat :=
  let exp := (x.extractLsb' 52 11).toNat
  let frac := (x.extractLsb' 0 52).toNat
  let sign : Rat := if x.getLsbD 63 then -1 else 1
  if exp = 2047 then none
  else if exp = 0 then some (sign * frac * (2 : Rat) ^ (-1074 : Int))
  else some (sign * (2 ^ 52 + frac) * (2 : Rat) ^ ((exp : Int) - 1075))

end Sys2Proof.Machine
end

