-- ==== Sys2Proof/Machine/Dec.lean ====
section
/-! DEFINITION. The decoder's read operations (43_decoder.md R161 to R167): the last-sample registers of a session,
the binary64 values computed at read time (10_state.md R29). -/

namespace Sys2Proof.Machine

/-- `DEC.RDVC CH` (R161). -/
def execDecRdvc (ch : Byte) (s : State) : Outcome := withSession ch s fun c => s.ret c.vc

/-- `DEC.RDIC CH` (R162). -/
def execDecRdic (ch : Byte) (s : State) : Outcome := withSession ch s fun c => s.ret c.ic

/-- `DEC.RDWC CH` (R163). -/
def execDecRdwc (ch : Byte) (s : State) : Outcome := withSession ch s fun c => s.ret c.wc

/-- `DEC.RDVF CH` (R164). -/
def execDecRdvf (ch : Byte) (s : State) : Outcome := withSession ch s fun c => s.ret (bits64 c.vc LOG_SCALE_VW)

/-- `DEC.RDIF CH` (R165). -/
def execDecRdif (ch : Byte) (s : State) : Outcome := withSession ch s fun c => s.ret (bits64 c.ic LOG_SCALE_I)

/-- `DEC.RDWF CH` (R166). -/
def execDecRdwf (ch : Byte) (s : State) : Outcome := withSession ch s fun c => s.ret (bits64 c.wc LOG_SCALE_VW)

/-- `DEC.RDCNT CH` (R167). -/
def execDecRdcnt (ch : Byte) (s : State) : Outcome := withSession ch s fun c => s.ret (c.cnt.setWidth 64)

end Sys2Proof.Machine
end

