-- ==== Sys2Proof/Machine/Enc.lean ====
section
/-! DEFINITION. The command frame encoder's operations (41_encoder.md R112 to R115). -/

namespace Sys2Proof.Machine

/-- The header bytes: `HDR`, then the length, high byte first (R112; 20_memory.md R41). -/
def State.emitHeader (len : BitVec 16) (s : State) : State :=
  ((s.emitTx HDR).emitTx (len.extractLsb' 8 8)).emitTx (len.extractLsb' 0 8)

/-- `ENC.HDR L` (R112). An empty payload's frame ends with its CRC byte at once. -/
def execEncHdr (len : BitVec 16) (s : State) : Outcome :=
  if s.encOpen then .next (s.raise .encBusy)
  else
    let s := s.emitHeader len
    if len = 0 then .next (((s.setEnc false len INIT).emitTx INIT).ret 0)
    else .next ((s.setEnc true len INIT).ret 0)

/-- `ENC.BYTE B` (R113). The last payload byte is followed by the CRC byte. -/
def execEncByte (b : Byte) (s : State) : Outcome :=
  if s.encOpen then
    let crc := crc8Byte s.encCrc b
    let rem := s.encRem - 1
    let s := s.emitTx b
    if rem = 0 then .next (((s.setEnc false rem crc).emitTx crc).ret 0)
    else .next ((s.setEnc true rem crc).ret 0)
  else .next (s.raise .encIdle)

/-- `ENC.ABORT` (R114). -/
def execEncAbort (s : State) : Outcome := .next ((s.setEnc false 0 0).ret 0)

/-- `ENC.RD` (R115): `enc_crc` in bits 31:24, `enc_open` in bit 16, `enc_rem` in bits 15:0. -/
def execEncRd (s : State) : Outcome :=
  .next (s.ret ((s.encCrc ++ 0#7 ++ flag s.encOpen ++ s.encRem).setWidth 64))

end Sys2Proof.Machine
end

