-- ==== Sys2Proof/Machine/Rsm.lean ====
section
/-! DEFINITION. The telemetry frame reassembler's operations (42_reassembler.md R133 to R139). -/

namespace Sys2Proof.Machine

/-- The event of a frame completed on session `ch` (R133; 20_memory.md R45; 43_decoder.md R159). -/
def sampleEvent (ch : Byte) (f : List Byte) : SampleEvent :=
  let d := decodeFrame f
  { ch := ch, frame := f, vcode := d.vc, icode := d.ic, wcode := d.wc, vbits := d.v, ibits := d.i, wbits := d.w }

/-- The context after frame `f` completed in context `c` (R133). -/
def Session.complete (c : Session) (f : List Byte) : Session :=
  let d := decodeFrame f
  { buf := [], drop := true, vc := d.vc, ic := d.ic, wc := d.wc, cnt := c.cnt + 1 }

/-- `rsm_push(ch, b)` (R133) on the context `c` of session `ch`: append, and complete at length 23. -/
def rsmPush (ch : Byte) (c : Session) (b : Byte) (s : State) : State :=
  let f := c.buf ++ [b]
  if f.length = FRAME_LEN then (s.setCtx ch (c.complete f)).emitSmp (sampleEvent ch f)
  else s.setCtx ch { c with buf := f }

/-- The context at the first byte of a new chunk: nothing is dropped yet, and the start marker discards the partial
frame (R134, R131). -/
def Session.startChunk (c : Session) (b : Byte) : Session :=
  { c with drop := false, buf := if b = MARKER then [] else c.buf }

/-- `RSM.FIRST CH, B` (R134). -/
def execRsmFirst (ch b : Byte) (s : State) : Outcome :=
  withSession ch s fun c => (rsmPush ch (c.startChunk b) b s).ret 0

/-- `RSM.NEXT CH, B` (R135): the bytes of a chunk after a completed frame are dropped (R136). -/
def execRsmNext (ch b : Byte) (s : State) : Outcome :=
  withSession ch s fun c => (if c.drop then s else rsmPush ch c b s).ret 0

/-- `RSM.CLR CH` (R139); the decoder registers stay. -/
def execRsmClr (ch : Byte) (s : State) : Outcome :=
  withSession ch s fun c => (s.setCtx ch { c with buf := [], drop := false }).ret 0

/-- `RSM.RD CH` (R137): `(rsm_drop << 8) OR len(rsm_buf)`. -/
def execRsmRd (ch : Byte) (s : State) : Outcome :=
  withSession ch s fun c => s.ret (BitVec.ofNat 64 ((c.drop.toNat <<< 8) ||| c.buf.length))

/-- `RSM.RDBUF CH, k` (R138): byte k of the partial buffer, 0 at or above its length. -/
def execRsmRdbuf (ch k : Byte) (s : State) : Outcome :=
  withSession ch s fun c => s.ret ((c.buf.getD k.toNat 0).setWidth 64)

end Sys2Proof.Machine
end

