-- ==== Sys2Proof/Machine/Sys.lean ====
section
/-! DEFINITION. The system operations (44_system.md). -/

namespace Sys2Proof.Machine

/-- `SYS.NOP` (R182). -/
def execSysNop (s : State) : Outcome := .next (s.ret 0)

/-- `SYS.RDSTAT` (R180). -/
def execSysRdstat (s : State) : Outcome := .next (s.ret (s.status.setWidth 64))

/-- `SYS.CLRSTAT` (R181). -/
def execSysClrstat (s : State) : Outcome := .next (s.clearErrors.ret 0)

end Sys2Proof.Machine
end

