-- ==== Sys2Proof/Machine/Dispatch.lean ====
section
/-! DEFINITION. One arm per operation: the meaning of each row of 30_encoding.md R63. -/

namespace Sys2Proof.Machine

def exec (i : Instr) (s : State) : Host.Outcome State Fault Refusal :=
  match i with
  -- SYS
  | .sysNop => Sys2Proof.Machine.execSysNop s
  | .sysRdstat => Sys2Proof.Machine.execSysRdstat s
  | .sysClrstat => Sys2Proof.Machine.execSysClrstat s
  -- CRC
  | .crcClr => Sys2Proof.Machine.execCrcClr s
  | .crcByte b => Sys2Proof.Machine.execCrcByte b s
  | .crcRd => Sys2Proof.Machine.execCrcRd s
  -- ENC
  | .encHdr len => Sys2Proof.Machine.execEncHdr len s
  | .encByte b => Sys2Proof.Machine.execEncByte b s
  | .encAbort => Sys2Proof.Machine.execEncAbort s
  | .encRd => Sys2Proof.Machine.execEncRd s
  -- RSM
  | .rsmFirst ch b => Sys2Proof.Machine.execRsmFirst ch b s
  | .rsmNext ch b => Sys2Proof.Machine.execRsmNext ch b s
  | .rsmClr ch => Sys2Proof.Machine.execRsmClr ch s
  | .rsmRd ch => Sys2Proof.Machine.execRsmRd ch s
  | .rsmRdbuf ch k => Sys2Proof.Machine.execRsmRdbuf ch k s
  -- DEC
  | .decRdvc ch => Sys2Proof.Machine.execDecRdvc ch s
  | .decRdic ch => Sys2Proof.Machine.execDecRdic ch s
  | .decRdwc ch => Sys2Proof.Machine.execDecRdwc ch s
  | .decRdvf ch => Sys2Proof.Machine.execDecRdvf ch s
  | .decRdif ch => Sys2Proof.Machine.execDecRdif ch s
  | .decRdwf ch => Sys2Proof.Machine.execDecRdwf ch s
  | .decRdcnt ch => Sys2Proof.Machine.execDecRdcnt ch s

end Sys2Proof.Machine
end

