-- ==== Sys2Proof/Machine/Port.lean ====
section
/-! DEFINITION. The operation port, back-pressure and the host's actions (20_memory.md R43 to R46;
70_reset_and_hazards.md R210, R211, R218). -/

namespace Sys2Proof.Machine

/-! ## Back-pressure (20_memory.md R46) -/

/-- A stream of capacity `depth` that holds `used` entries has room for `need` more; nothing to emit always fits ("An
operation that emits nothing is never held by a full stream"). -/
def roomFor (depth : Option Nat) (used need : Nat) : Bool :=
  match depth with
  | none => true
  | some d => need == 0 || decide (used + need ≤ d)

/-- The TX room `ENC.HDR L` must find: 4 bytes when L = 0, otherwise 3; the worst case is 4. A busy encoder makes it
an error, which emits nothing and is never a hold (60_exceptions.md R192). -/
def encHdrNeed (len : BitVec 16) (s : State) : Nat :=
  if s.encOpen then 0 else if s.cfg.worstCaseHold then 4 else if len = 0 then 4 else 3

/-- The TX room `ENC.BYTE` must find: 2 bytes when `enc_rem` = 1, otherwise 1; the worst case is 2. On an idle encoder
it is an error. -/
def encByteNeed (s : State) : Nat :=
  if s.encOpen then (if s.cfg.worstCaseHold then 2 else if s.encRem = 1 then 2 else 1) else 0

/-- The SMP room an operation that pushes a byte must find: 1 event when the byte completes a frame; the worst case is
1, for a byte that completes nothing too (DESIGN CHOICE, log entry 8). A `CH` at or above `N_SESS` makes it an error. -/
def pushNeed (ch : Byte) (s : State) (completes : Session → Bool) : Nat :=
  if ch.toNat < s.nSess then
    (if s.cfg.worstCaseHold then 1 else if completes (s.ctx ch) then 1 else 0)
  else 0

/-- The byte of `RSM.FIRST` completes a frame. -/
def firstCompletes (b : Byte) (c : Session) : Bool := (c.startChunk b).buf.length + 1 == FRAME_LEN

/-- The byte of `RSM.NEXT` completes a frame. -/
def nextCompletes (c : Session) : Bool := !c.drop && c.buf.length + 1 == FRAME_LEN

/-- The room on TX the port waits for before it accepts `i`. -/
def txNeed (i : Instr) (s : State) : Nat :=
  match i with
  | .encHdr len => encHdrNeed len s
  | .encByte _ => encByteNeed s
  | .sysNop | .sysRdstat | .sysClrstat | .crcClr | .crcByte _ | .crcRd | .encAbort | .encRd => 0
  | .rsmFirst _ _ | .rsmNext _ _ | .rsmClr _ | .rsmRd _ | .rsmRdbuf _ _ => 0
  | .decRdvc _ | .decRdic _ | .decRdwc _ | .decRdvf _ | .decRdif _ | .decRdwf _ | .decRdcnt _ => 0

/-- The room on SMP the port waits for before it accepts `i`. -/
def smpNeed (i : Instr) (s : State) : Nat :=
  match i with
  | .rsmFirst ch b => pushNeed ch s (firstCompletes b)
  | .rsmNext ch _ => pushNeed ch s nextCompletes
  | .sysNop | .sysRdstat | .sysClrstat | .crcClr | .crcByte _ | .crcRd => 0
  | .encHdr _ | .encByte _ | .encAbort | .encRd | .rsmClr _ | .rsmRd _ | .rsmRdbuf _ _ => 0
  | .decRdvc _ | .decRdic _ | .decRdwc _ | .decRdvf _ | .decRdif _ | .decRdwf _ | .decRdcnt _ => 0

/-- The port holds `i`: a stream it would emit to lacks room. -/
def heldInstr (i : Instr) (s : State) : Bool :=
  !(roomFor s.cfg.txDepth s.tx.length (txNeed i s) && roomFor s.cfg.smpDepth s.smp.length (smpNeed i s))

/-- The port holds the word `w`; an illegal word emits nothing and is never held. -/
def held (w : Word) (s : State) : Bool :=
  match decode w with
  | .ok i => heldInstr i s
  | .illegal _ => false

/-! ## Acceptance (20_memory.md R43; 60_exceptions.md R191, R195) -/

/-- The effect of accepting the word `w`: the operation it decodes to, or `E_ILLEGAL`. -/
def accept (w : Word) (s : State) : Outcome :=
  match decode w with
  | .ok i => exec i s
  | .illegal _ => .next (s.raise .illegal)

/-- The operation port moves: idle when no word is offered (60_exceptions.md R202), a hold changes nothing (R46), else
the word at the head leaves the port and takes effect. -/
def operate (s : State) : Outcome :=
  match s.ops with
  | [] => .next s
  | w :: _ => if held w s then .next s else accept w s.popOp

/-! ## The host's actions (70_reset_and_hazards.md R218) -/

/-- Reset is asserted (R210, R211): no operation is accepted in this step. The word then on the port is offered again
only when the host still wants it. -/
def assertReset (again : Bool) (s : State) : State :=
  if again then s.resetBlock else s.resetBlock.popOp

/-- One step, by what the host does in it; a host that has nothing else to do operates the port. -/
def portStep (s : State) : Outcome :=
  match s.acts with
  | [] => operate s
  | .operate :: _ => operate s.popAct
  | .takeTx :: _ => .next s.popAct.takeTx
  | .takeSmp :: _ => .next s.popAct.takeSmp
  | .reset again :: _ => .next (assertReset again s.popAct)

/-- `s` with the word of the `nbits` low bits of `w` on the operation port in place of what is offered there, and the
port moving next. -/
def offerWord (nbits w : Nat) (s : State) : State :=
  { s with ops := BitVec.ofNat 32 (w % 2 ^ nbits) :: s.ops.drop 1, acts := [] }

end Sys2Proof.Machine
end

