-- ==== Sys2Proof/Machine/Step.lean ====
section
/-! DEFINITION. One step of the machine, and how a word comes to the port. -/

namespace Sys2Proof.Machine

/-- One step: the host's next action, or the operation port (Port.lean). -/
def step (s : State) : Host.Outcome State Fault Refusal := portStep s

/-- `s` with an operation word where `step` takes its next one: at the head of the operation port (log entry 3). -/
def State.withFetchWord (s : State) (nbits w : Nat) : State := offerWord nbits w s

end Sys2Proof.Machine
end

