-- ==== Sys2Proof/Machine/Reference.lean ====
section
/-! DEFINITION. The source's reference functions (00_scope.md R13), which the port's operations compute: the command
frame encoder (41_encoder.md R110), the chunk-level reassembler step (42_reassembler.md R130), and the operation
sequences the host issues for a frame and for a chunk (30_encoding.md R75). -/

namespace Sys2Proof.Machine

/-- The error of the reference encoder (R110). Who raises it: `encodeCommand`. Safe: no frame is produced. -/
inductive EncodeError where
  /-- a payload longer than 65535 bytes (R110, R117) -/
  | sizeOverflow
deriving DecidableEq, Repr

/-- `encode_command(P)` (R110). -/
def encodeCommand (p : List Byte) : Except EncodeError (List Byte) :=
  let n := p.length
  if LEN_MAX < n then .error .sizeOverflow
  else .ok ([HDR, BitVec.ofNat 8 (n >>> 8), BitVec.ofNat 8 n] ++ p ++ [crc8 p])

/-- `rsm_ref(buf, chunk)` (R130): the new buffer and at most one completed frame. -/
def rsmRef (buf chunk : List Byte) : List Byte × Option (List Byte) :=
  match chunk with
  | [] => (buf, none)
  | b :: _ =>
    let acc := if b = MARKER then chunk else buf ++ chunk
    if FRAME_LEN ≤ acc.length then ([], some (acc.take FRAME_LEN)) else (acc, none)

/-- Repeated `rsm_ref` over a sequence of chunks: the final buffer and the completed frames, in order (R140). -/
def rsmRefAll (buf : List Byte) : List (List Byte) → List Byte × List (List Byte)
  | [] => (buf, [])
  | chunk :: rest =>
    let r := rsmRef buf chunk
    let q := rsmRefAll r.1 rest
    (q.1, r.2.toList ++ q.2)

/-- `enc.frame b0, …, bn-1` (30_encoding.md R75). -/
def frameOps (p : List Byte) : List Instr := .encHdr (BitVec.ofNat 16 p.length) :: p.map .encByte

/-- `rsm.chunk CH, b0, …, bn-1`: nothing for an empty chunk (30_encoding.md R75; 42_reassembler.md R141). -/
def chunkOps (ch : Byte) : List Byte → List Instr
  | [] => []
  | b :: rest => .rsmFirst ch b :: rest.map (.rsmNext ch)

/-- `crc.compute b0, …, bn-1` (30_encoding.md R75). -/
def crcOps (p : List Byte) : List Instr := .crcClr :: (p.map .crcByte ++ [.crcRd])

end Sys2Proof.Machine
end

