-- ==== Sys2Proof/WellFormed.lean ====
section
/-! DEFINITION. Well-formedness. A term of `Instr` is always well-formed as an encoding, because its operands have
the fields' widths (30_encoding.md R64), and a `CH` at or above `N_SESS` is well-formed too (R65). What can be
ill-formed is an operation as the host writes it, with operands that are plain numbers: the assembler's checks of
30_encoding.md R74 and R75 stand here. -/

namespace Sys2Proof

/-- What an operand position of 30_encoding.md R74 and R75 takes. -/
inductive OperandKind where
  /-- `CH`, at most 255 -/
  | session
  /-- `B` or `k`, at most 255 -/
  | byte
  /-- `L`, at most 65535 -/
  | length
  /-- zero or more bytes, last position only (R75) -/
  | bytes
deriving DecidableEq, Repr

/-- The largest number an operand position admits (R74). -/
def OperandKind.max : OperandKind → Nat
  | .session | .byte | .bytes => 255
  | .length => 65535

/-- Why the assembler refuses a line (R74, R75). Who raises it: `AsmLine.error?` and `Machine.parseLine`. Safe: a
refused line yields no operation word. -/
inductive AsmError where
  /-- no operation or pseudo-operation has this name -/
  | unknownMnemonic
  /-- too few or too many operands for the form -/
  | operandCount
  /-- "An operand out of its field's range is an assembly error" (R74) -/
  | operandRange
  /-- "encoding-size overflow": `enc.frame` with more than 65535 bytes (R75; 41_encoder.md R117) -/
  | sizeOverflow
  /-- the line's text is not of the syntax of R74 -/
  | badText
deriving DecidableEq, Repr

/-- One line of assembly: the name in lower case and its operands (R74). -/
structure AsmLine where
  mnem : String
  args : List Nat
deriving DecidableEq, Repr

/-- The operand forms of R74 and, below them, of the pseudo-operations of R75. -/
def asmForms : List (String × List OperandKind) :=
  [ ("sys.nop", []), ("sys.rdstat", []), ("sys.clrstat", []),
    ("crc.clr", []), ("crc.byte", [.byte]), ("crc.rd", []),
    ("enc.hdr", [.length]), ("enc.byte", [.byte]), ("enc.abort", []), ("enc.rd", []) ] ++
  [ ("rsm.first", [.session, .byte]), ("rsm.next", [.session, .byte]), ("rsm.clr", [.session]),
    ("rsm.rd", [.session]), ("rsm.rdbuf", [.session, .byte]) ] ++
  [ ("dec.rdvc", [.session]), ("dec.rdic", [.session]), ("dec.rdwc", [.session]),
    ("dec.rdvf", [.session]), ("dec.rdif", [.session]), ("dec.rdwf", [.session]),
    ("dec.rdcnt", [.session]) ] ++
  [ ("crc.bytes", [.bytes]), ("crc.compute", [.bytes]), ("enc.frame", [.bytes]),
    ("enc.start_monitor", []), ("rsm.chunk", [.session, .bytes]) ]

/-- The count and range checks of R74 over one form, operand by operand from the left. Which error a line with several
reports is the model's choice (DESIGN CHOICE, log entry 14). -/
def checkOperands : List OperandKind → List Nat → Option AsmError
  | [], [] => none
  | [.bytes], args => if args.all (· ≤ 255) then none else some .operandRange
  | k :: ks, a :: rest => if a ≤ k.max then checkOperands ks rest else some .operandRange
  | [], _ :: _ => some .operandCount
  | _ :: _, [] => some .operandCount

/-- Why a line is refused, `none` when it assembles (R74, R75). The spec gives no order of the checks. DESIGN CHOICE, log
entry 14: an unknown name first, then the operands from the left (so an operand out of range before a missing or extra
operand to its right), and the size of `enc.frame` last (so an operand above 255 before more than 65535 operands). -/
def AsmLine.error? (l : AsmLine) : Option AsmError :=
  match asmForms.lookup l.mnem with
  | none => some .unknownMnemonic
  | some form =>
    match checkOperands form l.args with
    | some e => some e
    | none => if l.mnem = "enc.frame" ∧ LEN_MAX < l.args.length then some .sizeOverflow else none

/-- The line assembles. -/
def AsmLine.wf (l : AsmLine) : Bool := l.error?.isNone

end Sys2Proof
end

