-- ==== Sys2Proof/Machine/Assembler.lean ====
section
/-! DEFINITION. The assembler of 30_encoding.md R74 and R75: a line of text to operations, pseudo-operations
expanded. Only the word order and number forms of R74 are the spec's; white space is log entry 10. -/

namespace Sys2Proof.Machine

/-! ## From a line to operations -/

/-- Operand `n` of a line as a byte. -/
def byteArg (args : List Nat) (n : Nat) : Byte := BitVec.ofNat 8 (args.getD n 0)

/-- The operations of a line whose operands were checked: the forms of R74, then the expansions of R75. -/
def expandLine (l : AsmLine) : List Instr :=
  let bytes := l.args.map (BitVec.ofNat 8)
  let ch := byteArg l.args 0
  let b := byteArg l.args 1
  match l.mnem with
  | "sys.nop" => [.sysNop]
  | "sys.rdstat" => [.sysRdstat]
  | "sys.clrstat" => [.sysClrstat]
  | "crc.clr" => [.crcClr]
  | "crc.byte" => [.crcByte (byteArg l.args 0)]
  | "crc.rd" => [.crcRd]
  | "enc.hdr" => [.encHdr (BitVec.ofNat 16 (l.args.getD 0 0))]
  | "enc.byte" => [.encByte (byteArg l.args 0)]
  | "enc.abort" => [.encAbort]
  | "enc.rd" => [.encRd]
  | "rsm.first" => [.rsmFirst ch b]
  | "rsm.next" => [.rsmNext ch b]
  | "rsm.clr" => [.rsmClr ch]
  | "rsm.rd" => [.rsmRd ch]
  | "rsm.rdbuf" => [.rsmRdbuf ch b]
  | "dec.rdvc" => [.decRdvc ch]
  | "dec.rdic" => [.decRdic ch]
  | "dec.rdwc" => [.decRdwc ch]
  | "dec.rdvf" => [.decRdvf ch]
  | "dec.rdif" => [.decRdif ch]
  | "dec.rdwf" => [.decRdwf ch]
  | "dec.rdcnt" => [.decRdcnt ch]
  | "crc.bytes" => bytes.map .crcByte
  | "crc.compute" => crcOps bytes
  | "enc.frame" => frameOps bytes
  | "enc.start_monitor" => frameOps [OPC_START]
  | "rsm.chunk" => chunkOps ch (bytes.drop 1)
  | _ => []

/-- One line: refused by name, or its operations (R74, R75). -/
def assembleLine (l : AsmLine) : Except AsmError (List Instr) :=
  match l.error? with
  | some e => .error e
  | none => .ok (expandLine l)

/-! ## Text (R74) -/

/-- A digit of base 16, either case. -/
def hexDigit (c : Char) : Option Nat :=
  if '0' ≤ c ∧ c ≤ '9' then some (c.toNat - '0'.toNat)
  else if 'a' ≤ c ∧ c ≤ 'f' then some (c.toNat - 'a'.toNat + 10)
  else if 'A' ≤ c ∧ c ≤ 'F' then some (c.toNat - 'A'.toNat + 10)
  else none

/-- Digits of a base below 17 to a number, first digit highest, starting from `acc`. -/
def digits (base : Nat) : Nat → List Char → Option Nat
  | acc, [] => some acc
  | acc, c :: cs =>
    match hexDigit c with
    | some d => if d < base then digits base (acc * base + d) cs else none
    | none => none

/-- "Numbers are decimal or 0x-prefixed hexadecimal" (R74). -/
def parseNumber : List Char → Option Nat
  | [] => none
  | ['0', 'x'] => none
  | '0' :: 'x' :: ds => digits 16 0 ds
  | ds => digits 10 0 ds

/-- White space between tokens. -/
def blankChar (c : Char) : Bool := c == ' ' || c == '\t'

/-- Text without white space at its ends. -/
def trimChars (cs : List Char) : List Char := ((cs.dropWhile blankChar).reverse.dropWhile blankChar).reverse

/-- The pieces between commas. -/
def splitCommas : List Char → List (List Char)
  | [] => [[]]
  | c :: cs =>
    match splitCommas cs with
    | [] => [[]]
    | p :: ps => if c = ',' then [] :: p :: ps else (c :: p) :: ps

/-- The mnemonic in lower case; R74 allows all lower or all upper case. -/
def lowerMnemonic (cs : List Char) : Option (List Char) :=
  if cs.all (fun c => !c.isUpper) then some cs
  else if cs.all (fun c => !c.isLower) then some (cs.map Char.toLower)
  else none

/-- The operands of a line: numbers separated by commas, none when nothing follows the mnemonic. -/
def parseOperands (cs : List Char) : Option (List Nat) :=
  if cs = [] then some []
  else (splitCommas cs).mapM (fun p => parseNumber (trimChars p))

/-- One line of text: `;` starts a comment, an empty line holds no operation (R74). -/
def parseLine (text : String) : Except AsmError (Option AsmLine) :=
  let cs := trimChars (text.toList.takeWhile (· != ';'))
  if cs = [] then .ok none
  else
    match lowerMnemonic (cs.takeWhile (fun c => !blankChar c)),
        parseOperands (trimChars (cs.dropWhile (fun c => !blankChar c))) with
    | some m, some args => .ok (some ⟨String.ofList m, args⟩)
    | _, _ => .error .badText

/-- The operation words of one line of text. -/
def assembleText (text : String) : Except AsmError (List Word) :=
  match parseLine text with
  | .error e => .error e
  | .ok none => .ok []
  | .ok (some l) =>
    match assembleLine l with
    | .error e => .error e
    | .ok is => .ok (is.map encode)

/-- The operation words of a program, one line each; the first bad line refuses it. -/
def assembleProgram : List String → Except AsmError (List Word)
  | [] => .ok []
  | t :: ts =>
    match assembleText t, assembleProgram ts with
    | .ok ws, .ok rest => .ok (ws ++ rest)
    | .error e, _ => .error e
    | .ok _, .error e => .error e

end Sys2Proof.Machine
end

