-- ==== Sys2Proof/Safety.lean ====
section
/-! DEFINITION. The terms the claims are stated in: what a legal state is (the invariant every step keeps), what a run
of operations is, the error effect written out, and the CRC table of the spec. A run is safe when every step answers a
next state and the invariant holds; the block has no fault to reach (60_exceptions.md R195, R196). -/

namespace Sys2Proof.Machine

/-! ## Legal states -/

/-- A legal context: the buffer holds at most 22 bytes (10_state.md R27), the codes are below 2^48 (R29), and a chunk
whose rest is dropped left the buffer empty (42_reassembler.md R133). -/
structure Session.Legal (c : Session) : Prop where
  buf : c.buf.length ≤ 22
  drop : c.drop = true → c.buf = []
  vc : c.vc.toNat < 2 ^ 48
  ic : c.ic.toNat < 2 ^ 48
  wc : c.wc.toNat < 2 ^ 48

/-- A legal event of a machine with `n` sessions: it is the sample of a 23-byte frame (20_memory.md R45). -/
structure SampleEvent.Legal (n : Nat) (e : SampleEvent) : Prop where
  ch : e.ch.toNat < n
  frame : e.frame.length = 23
  sample : e = sampleEvent e.ch e.frame

/-- A stream of `used` entries is within its capacity (10_state.md R31; 00_scope.md R8). -/
def WithinDepth (depth : Option Nat) (used : Nat) : Prop := ∀ d, depth = some d → used ≤ d

/-- The invariant of the block. -/
structure State.Inv (s : State) : Prop where
  /-- `N_SESS` is 1 to 256 (00_scope.md R8) -/
  sessions : 1 ≤ s.nSess ∧ s.nSess ≤ 256
  /-- the stream depths are in the ranges of 00_scope.md R8 -/
  config : s.cfg.legal = true
  /-- no error is recorded, or `LAST_ERR` is one of the four codes and its sticky bit is set (60_exceptions.md R190) -/
  status : (s.sticky = 0 ∧ s.lastErr = 0) ∨ ∃ e : ErrCode, s.lastErr = e.code ∧ s.sticky &&& e.bit = e.bit
  /-- `enc_open = 0` implies `enc_rem = 0` (10_state.md R26) -/
  encClosed : s.encOpen = false → s.encRem = 0
  /-- `enc_open = 1` implies `1 <= enc_rem` (10_state.md R26) -/
  encOpened : s.encOpen = true → 1 ≤ s.encRem.toNat
  /-- every context is legal -/
  contexts : ∀ c ∈ s.sess, c.Legal
  /-- every event emitted is the sample of a frame -/
  events : ∀ e ∈ s.smpTaken ++ s.smp, e.Legal s.nSess
  /-- TX is within `TX_DEPTH` -/
  txDepth : WithinDepth s.cfg.txDepth s.tx.length
  /-- SMP is within `SMP_DEPTH` -/
  smpDepth : WithinDepth s.cfg.smpDepth s.smp.length

/-! ## Runs of operations -/

/-- A sequence of operations, executed one at a time in order (20_memory.md R43). -/
def execAll : List Instr → State → Outcome
  | [], s => .next s
  | i :: rest, s =>
    match exec i s with
    | .next t => execAll rest t
    | .fault r => .fault r
    | .refused r => .refused r

/-- The outcome with `f` applied to its next state. -/
def mapNext (f : State → State) : Outcome → Outcome
  | .next t => .next (f t)
  | .fault r => .fault r
  | .refused r => .refused r

/-- The encoder's operations, the only ones that touch the encoder (10_state.md R26). -/
def isEnc : Instr → Bool
  | .encHdr _ | .encByte _ | .encAbort | .encRd => true
  | .sysNop | .sysRdstat | .sysClrstat | .crcClr | .crcByte _ | .crcRd => false
  | .rsmFirst _ _ | .rsmNext _ _ | .rsmClr _ | .rsmRd _ | .rsmRdbuf _ _ => false
  | .decRdvc _ | .decRdic _ | .decRdwc _ | .decRdvf _ | .decRdif _ | .decRdwf _ | .decRdcnt _ => false

/-- The read operations: a mnemonic ending in `RD…`, and `SYS.RDSTAT` (10_state.md R22; 20_memory.md R50). -/
def isRead : Instr → Bool
  | .sysRdstat | .crcRd | .encRd | .rsmRd _ | .rsmRdbuf _ _ => true
  | .decRdvc _ | .decRdic _ | .decRdwc _ | .decRdvf _ | .decRdif _ | .decRdwf _ | .decRdcnt _ => true
  | .sysNop | .sysClrstat | .crcClr | .crcByte _ | .encHdr _ | .encByte _ | .encAbort => false
  | .rsmFirst _ _ | .rsmNext _ _ | .rsmClr _ => false

/-- The operation's `CH` field is `ch` (20_memory.md R48). -/
def onSession (ch : Byte) (i : Instr) : Bool := i.session? == some ch

/-- The events tagged `ch`, in order (20_memory.md R48). -/
def eventsOf (ch : Byte) (es : List SampleEvent) : List SampleEvent := es.filter (fun e => e.ch == ch)

/-- The results of the operations on session `ch`, in order, of a run of `is` that returned `rs`. -/
def resultsOf (ch : Byte) (is : List Instr) (rs : List Res) : List Res :=
  ((is.zip rs).filter (fun p => onSession ch p.1)).map Prod.snd

/-! ## Errors, written out -/

/-- The effect of 60_exceptions.md R192 for the sticky bit `bit` and the code `code`: that bit set, `LAST_ERR` the code,
`res` = 0, nothing else. -/
def afterError (bit : BitVec 4) (code : Byte) (s : State) : State :=
  { s with sticky := s.sticky ||| bit, lastErr := code, results := s.results ++ [0] }

/-- The word `w` in the state `s` is an error of the sticky bit `bit` and the code `code`: it is accepted, never held, and
has the effect of R192 and no other. -/
def Raises (bit : BitVec 4) (code : Byte) (w : Word) (s : State) : Prop :=
  held w s = false ∧ accept w s = .next (afterError bit code s)

/-- `UNIT` and `FUNC` of a word, its bits 31:24. -/
def opcodeOf (w : Word) : BitVec 8 := w.extractLsb' 24 8

/-- The word raises `E_ILLEGAL` in every state, because a field its row does not use is nonzero (30_encoding.md R66),
and is never held. -/
def UnusedFieldRaises (w : Word) : Prop :=
  decode w = .illegal .unusedField ∧ ∀ s, Raises 0b0001#4 1 w s

/-! ## The CRC table (40_crc.md R92), as the spec prints it -/

/-- Rows 0x to 7x of `T`. -/
def crcTableLow : List Byte :=
  [0x00, 0x85, 0x8F, 0x0A, 0x9B, 0x1E, 0x14, 0x91, 0xB3, 0x36, 0x3C, 0xB9, 0x28, 0xAD, 0xA7, 0x22] ++
  [0xE3, 0x66, 0x6C, 0xE9, 0x78, 0xFD, 0xF7, 0x72, 0x50, 0xD5, 0xDF, 0x5A, 0xCB, 0x4E, 0x44, 0xC1] ++
  [0x43, 0xC6, 0xCC, 0x49, 0xD8, 0x5D, 0x57, 0xD2, 0xF0, 0x75, 0x7F, 0xFA, 0x6B, 0xEE, 0xE4, 0x61] ++
  [0xA0, 0x25, 0x2F, 0xAA, 0x3B, 0xBE, 0xB4, 0x31, 0x13, 0x96, 0x9C, 0x19, 0x88, 0x0D, 0x07, 0x82] ++
  [0x86, 0x03, 0x09, 0x8C, 0x1D, 0x98, 0x92, 0x17, 0x35, 0xB0, 0xBA, 0x3F, 0xAE, 0x2B, 0x21, 0xA4] ++
  [0x65, 0xE0, 0xEA, 0x6F, 0xFE, 0x7B, 0x71, 0xF4, 0xD6, 0x53, 0x59, 0xDC, 0x4D, 0xC8, 0xC2, 0x47] ++
  [0xC5, 0x40, 0x4A, 0xCF, 0x5E, 0xDB, 0xD1, 0x54, 0x76, 0xF3, 0xF9, 0x7C, 0xED, 0x68, 0x62, 0xE7] ++
  [0x26, 0xA3, 0xA9, 0x2C, 0xBD, 0x38, 0x32, 0xB7, 0x95, 0x10, 0x1A, 0x9F, 0x0E, 0x8B, 0x81, 0x04]

/-- Rows 8x to Fx of `T`. -/
def crcTableHigh : List Byte :=
  [0x89, 0x0C, 0x06, 0x83, 0x12, 0x97, 0x9D, 0x18, 0x3A, 0xBF, 0xB5, 0x30, 0xA1, 0x24, 0x2E, 0xAB] ++
  [0x6A, 0xEF, 0xE5, 0x60, 0xF1, 0x74, 0x7E, 0xFB, 0xD9, 0x5C, 0x56, 0xD3, 0x42, 0xC7, 0xCD, 0x48] ++
  [0xCA, 0x4F, 0x45, 0xC0, 0x51, 0xD4, 0xDE, 0x5B, 0x79, 0xFC, 0xF6, 0x73, 0xE2, 0x67, 0x6D, 0xE8] ++
  [0x29, 0xAC, 0xA6, 0x23, 0xB2, 0x37, 0x3D, 0xB8, 0x9A, 0x1F, 0x15, 0x90, 0x01, 0x84, 0x8E, 0x0B] ++
  [0x0F, 0x8A, 0x80, 0x05, 0x94, 0x11, 0x1B, 0x9E, 0xBC, 0x39, 0x33, 0xB6, 0x27, 0xA2, 0xA8, 0x2D] ++
  [0xEC, 0x69, 0x63, 0xE6, 0x77, 0xF2, 0xF8, 0x7D, 0x5F, 0xDA, 0xD0, 0x55, 0xC4, 0x41, 0x4B, 0xCE] ++
  [0x4C, 0xC9, 0xC3, 0x46, 0xD7, 0x52, 0x58, 0xDD, 0xFF, 0x7A, 0x70, 0xF5, 0x64, 0xE1, 0xEB, 0x6E] ++
  [0xAF, 0x2A, 0x20, 0xA5, 0x34, 0xB1, 0xBB, 0x3E, 0x1C, 0x99, 0x93, 0x16, 0x87, 0x02, 0x08, 0x8D]

/-- `T`, index 0 to 255 (R92). -/
def crcTable : List Byte := crcTableLow ++ crcTableHigh

end Sys2Proof.Machine
end

