-- ==== Sys2Proof/Certificates/Slice0/Obligations.lean ====
section
/-! DEFINITION. The statements for the provers, from the numbered rules of spec/. Effects are written as record
updates over the state, so each result statement is its own frame: what the update does not name is unchanged. The
block has no memory (20_memory.md R40), so no frame speaks of one. -/

open Sys2Proof Sys2Proof.Machine

/-! ## Encoding (30_encoding.md) -/

/-- Decoding the word of an operation gives the operation back, with every operand at every value (R60, R63, R64). -/
def Obligations.DecodeEncodeRoundTrip : Prop :=
  ∀ i : Instr, decode (encode i) = .ok i

/-- A legal word is the encoding of the operation it decodes to: no bit of it is ignored (R63, R66). -/
def Obligations.EncodeDecodeSameWord : Prop :=
  ∀ (w : Word) (i : Instr), decode w = .ok i → encode i = w

/-- R63: a word selects the row whose `match` equals `w AND mask`, and no two rows match the same word. -/
def Obligations.WordSelectsItsRow : Prop :=
  (∀ (w : Word) (i : Instr),
    decode w = .ok i ↔ ∃ r ∈ opcodeTable, w &&& r.mask = r.pat ∧ r.build w = i) ∧
  (∀ (w : Word), ∀ r ∈ opcodeTable, ∀ q ∈ opcodeTable,
    w &&& r.mask = r.pat → w &&& q.mask = q.pat → r.mnemonic = q.mnemonic)

/-- R66: the two conditions that make a word illegal, with the unassigned `FUNC` values unit by unit; every other word
is legal; an illegal word raises `E_ILLEGAL` and has no other effect. -/
def Obligations.IllegalWordsExactly : Prop :=
  (∀ w : Word, decode w = .illegal .unassigned ↔
    5 ≤ (unitOf w).toNat ∨ (unitOf w = 0 ∧ 3 ≤ (funcOf w).toNat) ∨ (unitOf w = 1 ∧ 3 ≤ (funcOf w).toNat) ∨
      (unitOf w = 2 ∧ 4 ≤ (funcOf w).toNat) ∨ (unitOf w = 3 ∧ 5 ≤ (funcOf w).toNat) ∨
      (unitOf w = 4 ∧ 7 ≤ (funcOf w).toNat)) ∧
  (∀ w : Word, decode w = .illegal .unusedField ↔
    ∃ r ∈ opcodeTable, r.unit = unitOf w ∧ r.func = funcOf w ∧ w &&& r.mask ≠ r.pat) ∧
  (∀ (w : Word) (why : Illegal) (s : State), decode w = .illegal why → Raises 0b0001#4 1 w s)

/-- R76: the words of the examples, each way. -/
def Obligations.ExampleWords : Prop :=
  (encode (.encHdr 1) = 0x20000001#32 ∧ decode 0x20000001#32 = .ok (.encHdr 1)) ∧
  (encode (.encByte 0x08) = 0x21000008#32 ∧ decode 0x21000008#32 = .ok (.encByte 0x08)) ∧
  (encode (.rsmFirst 1 0xAA) = 0x300100AA#32 ∧ decode 0x300100AA#32 = .ok (.rsmFirst 1 0xAA)) ∧
  (encode (.rsmNext 0 0x64) = 0x31000064#32 ∧ decode 0x31000064#32 = .ok (.rsmNext 0 0x64)) ∧
  (encode (.decRdvf 1) = 0x43010000#32 ∧ decode 0x43010000#32 = .ok (.decRdvf 1)) ∧
  (encode (.rsmRdbuf 0 4) = 0x34000004#32 ∧ decode 0x34000004#32 = .ok (.rsmRdbuf 0 4))

/-! ## The port (20_memory.md, 60_exceptions.md, 70_reset_and_hazards.md) -/

/-- A step in which the port moves runs the word at the head of the port: held, it stays there and nothing changes;
legal, `exec` of what it decodes to runs in the state without it; illegal, `E_ILLEGAL`. With no word the port is idle.
Log entry 3: an empty action list means the port moves. -/
def Obligations.StepRunsOfferedWord : Prop :=
  ∀ (s : State) (more : List HostAct), (s.acts = [] ∧ more = [] ∨ s.acts = .operate :: more) →
    (s.ops = [] → step s = .next { s with acts := more }) ∧
    (∀ (w : Word) (rest : List Word), s.ops = w :: rest →
      (held w s = true → step s = .next { s with acts := more }) ∧
      (∀ i, held w s = false → decode w = .ok i → step s = exec i { s with ops := rest, acts := more }) ∧
      (∀ why, decode w = .illegal why →
        step s = .next (afterError 0b0001#4 1 { s with ops := rest, acts := more })))

/-- Every word, in every state, either executes as its operation or is illegal with the effect of `E_ILLEGAL`
(60_exceptions.md R195), and every step answers a next state (R196; that the block never stops is log entry 6). -/
def Obligations.EveryWordHasAnOutcome : Prop :=
  (∀ (w : Word) (s : State),
    (∃ (i : Instr) (t : State), decode w = .ok i ∧ accept w s = exec i s ∧ exec i s = .next t) ∨
    (∃ why : Illegal, decode w = .illegal why ∧ accept w s = .next (afterError 0b0001#4 1 s))) ∧
  (∀ s : State, ∃ t, step s = .next t)

/-- R22: exactly one result per accepted operation, after the earlier ones; 0 unless it is a read operation that raises
no error. -/
def Obligations.OneResultPerOperation : Prop :=
  ∀ (w : Word) (s : State), ∃ (t : State) (v : Res), accept w s = .next t ∧ t.results = s.results ++ [v] ∧
    ((∀ i, decode w = .ok i → isRead i = false) → v = 0) ∧
    (∀ i ch, decode w = .ok i → i.session? = some ch → s.nSess ≤ ch.toNat → v = 0)

/-- R191, R192, R193: the checks in their order, each with the effect of its error and no other; an error is never a
hold, and only these conditions raise one. -/
def Obligations.ErrorChecksInOrder : Prop :=
  ∀ (w : Word) (s : State),
    (rowOf w = none → Raises 0b0001#4 1 w s) ∧
    (∀ r, rowOf w = some r → w &&& r.mask ≠ r.pat → Raises 0b0001#4 1 w s) ∧
    (∀ r, rowOf w = some r → w &&& r.mask = r.pat → (r.unit = 3 ∨ r.unit = 4) → s.nSess ≤ (chOf w).toNat →
      Raises 0b0010#4 2 w s) ∧
    (∀ len, decode w = .ok (.encHdr len) → s.encOpen = true → Raises 0b0100#4 3 w s) ∧
    (∀ b, decode w = .ok (.encByte b) → s.encOpen = false → Raises 0b1000#4 4 w s) ∧
    (∀ t, accept w s = .next t → (t.sticky, t.lastErr) ≠ (s.sticky, s.lastErr) →
      decode w = .ok .sysClrstat ∨ Raises 0b0001#4 1 w s ∨ Raises 0b0010#4 2 w s ∨
        Raises 0b0100#4 3 w s ∨ Raises 0b1000#4 4 w s)

/-- R190: the codes and their sticky bits, each raised by the operations the table names and by no other. -/
def Obligations.ErrorsOnlyFromTheirOperations : Prop :=
  (ErrCode.illegal.code = 1 ∧ ErrCode.badCh.code = 2 ∧ ErrCode.encBusy.code = 3 ∧ ErrCode.encIdle.code = 4) ∧
  (ErrCode.illegal.bit = 0b0001#4 ∧ ErrCode.badCh.bit = 0b0010#4 ∧ ErrCode.encBusy.bit = 0b0100#4 ∧
    ErrCode.encIdle.bit = 0b1000#4) ∧
  (∀ (i : Instr) (s t : State), exec i s = .next t →
    (t.sticky = s.sticky ∧ t.lastErr = s.lastErr) ∨
    (i = .sysClrstat ∧ t.sticky = 0 ∧ t.lastErr = 0) ∨
    ((∃ ch, i.session? = some ch ∧ s.nSess ≤ ch.toNat) ∧ t = afterError 0b0010#4 2 s) ∨
    ((∃ len, i = .encHdr len) ∧ s.encOpen = true ∧ t = afterError 0b0100#4 3 s) ∨
    ((∃ b, i = .encByte b) ∧ s.encOpen = false ∧ t = afterError 0b1000#4 4 s))

/-- R24: over one step the sticky bits and `LAST_ERR` stay, or an error sets its bit (no bit is cleared) and
`LAST_ERR`, or `SYS.CLRSTAT` or reset sets them to 0. -/
def Obligations.ErrorBitsAccumulate : Prop :=
  ∀ s t : State, step s = .next t →
    (t.sticky = s.sticky ∧ t.lastErr = s.lastErr) ∨
    (∃ e : ErrCode, t.sticky = s.sticky ||| e.bit ∧ t.lastErr = e.code ∧ t.results = s.results ++ [0]) ∨
    (t.sticky = 0 ∧ t.lastErr = 0 ∧ s.ops.head? = some 0x02000000#32 ∧ t.results = s.results ++ [0]) ∨
    (t.sticky = 0 ∧ t.lastErr = 0 ∧ ∃ again, s.acts.head? = some (.reset again))

/-- R23: `STATUS` field by field; `ENC_OPEN` is live and the reserved bits read as 0. -/
def Obligations.StatusFields : Prop :=
  ∀ s : State,
    s.status.extractLsb' 0 4 = s.sticky ∧ s.status.extractLsb' 4 4 = 0 ∧ s.status.extractLsb' 8 8 = s.lastErr ∧
    s.status.getLsbD 16 = s.encOpen ∧ s.status.extractLsb' 17 15 = 0 ∧
    s.status.toNat = s.sticky.toNat + 256 * s.lastErr.toNat + 65536 * s.encOpen.toNat

/-- R46: with the exact rule an operation is held exactly when a stream lacks room for what it would emit; with the
worst-case rule, when the stream has less room than the worst case (which operations that rule holds is the model's
reading, log entry 8); an operation of a kind that never emits is never held; a held step changes nothing. -/
def Obligations.HoldOnlyForLackOfRoom : Prop :=
  (∀ (i : Instr) (s t : State), s.cfg.worstCaseHold = false → exec i s = .next t →
    (heldInstr i s = true ↔
      (∃ d, s.cfg.txDepth = some d ∧ s.tx.length < t.tx.length ∧ d < t.tx.length) ∨
      (∃ d, s.cfg.smpDepth = some d ∧ s.smp.length < t.smp.length ∧ d < t.smp.length))) ∧
  (∀ (i : Instr) (s : State), s.cfg.worstCaseHold = true →
    (heldInstr i s = true ↔
      (∃ d len, i = .encHdr len ∧ s.encOpen = false ∧ s.cfg.txDepth = some d ∧ d < s.tx.length + 4) ∨
      (∃ d b, i = .encByte b ∧ s.encOpen = true ∧ s.cfg.txDepth = some d ∧ d < s.tx.length + 2) ∨
      (∃ d ch b, (i = .rsmFirst ch b ∨ i = .rsmNext ch b) ∧ ch.toNat < s.nSess ∧
        s.cfg.smpDepth = some d ∧ d < s.smp.length + 1))) ∧
  (∀ (i : Instr) (s : State), (∀ len, i ≠ .encHdr len) → (∀ b, i ≠ .encByte b) →
    (∀ ch b, i ≠ .rsmFirst ch b ∧ i ≠ .rsmNext ch b) → heldInstr i s = false) ∧
  (∀ (i : Instr) (s : State), s.cfg.txDepth = none → s.cfg.smpDepth = none → heldInstr i s = false) ∧
  (∀ (w : Word) (rest : List Word) (s : State), s.acts = [] → s.ops = w :: rest → held w s = true →
    step s = .next s)

/-- R44: TX bytes appear in emission order and are lost only to reset; a take moves the head to the host, one byte; only
`ENC.HDR` and `ENC.BYTE` emit. -/
def Obligations.TxStreamLosesNothing : Prop :=
  (∀ s t : State, step s = .next t → (∀ again, s.acts.head? ≠ some (.reset again)) →
    ∃ new, t.txTaken ++ t.tx = (s.txTaken ++ s.tx) ++ new) ∧
  (∀ (i : Instr) (s t : State), exec i s = .next t →
    ∃ new, t.tx = s.tx ++ new ∧ t.txTaken = s.txTaken ∧
      (new ≠ [] → (∃ len, i = .encHdr len) ∨ (∃ b, i = .encByte b))) ∧
  (∀ (s : State) (b : Byte) (tl : List Byte) (more : List HostAct), s.acts = .takeTx :: more → s.tx = b :: tl →
    step s = .next { s with acts := more, tx := tl, txTaken := s.txTaken ++ [b] })

/-- R45, R159: SMP events appear in emission order and are lost only to reset; an operation emits at most one event,
exactly when a frame completes on its session; the event is the record of R45 and the session's counter advances. -/
def Obligations.OneEventPerCompletedFrame : Prop :=
  (∀ s t : State, step s = .next t → (∀ again, s.acts.head? ≠ some (.reset again)) →
    ∃ new, t.smpTaken ++ t.smp = (s.smpTaken ++ s.smp) ++ new) ∧
  (∀ (i : Instr) (s t : State), exec i s = .next t →
    (t.smp = s.smp ∧ ∀ ch : Byte, (t.ctx ch).cnt = (s.ctx ch).cnt) ∨
    (∃ (ch b : Byte) (f : List Byte), (i = .rsmFirst ch b ∨ i = .rsmNext ch b) ∧ f.length = 23 ∧
      t.smp = s.smp ++ [{ ch := ch, frame := f, vcode := le48 f 5, icode := le48 f 11, wcode := le48 f 17,
                          vbits := bits64 (le48 f 5) 24, ibits := bits64 (le48 f 11) 30,
                          wbits := bits64 (le48 f 17) 24 }] ∧
      (t.ctx ch).cnt = (s.ctx ch).cnt + 1 ∧ ∀ k : Byte, k ≠ ch → (t.ctx k).cnt = (s.ctx k).cnt)) ∧
  (∀ (s : State) (e : SampleEvent) (tl : List SampleEvent) (more : List HostAct),
    s.acts = .takeSmp :: more → s.smp = e :: tl →
    step s = .next { s with acts := more, smp := tl, smpTaken := s.smpTaken ++ [e] })

/-- R210, R211: reset gives every element its value of R33, discards the streams, and accepts no operation; the word on
the port is offered again only if the host still wants it (log entry 3). -/
def Obligations.ResetWinsAndClears : Prop :=
  ∀ (s : State) (again : Bool) (more : List HostAct), s.acts = .reset again :: more →
    step s = .next
      { s with sticky := 0, lastErr := 0, crcReg := 0, encOpen := false, encRem := 0, encCrc := 0,
               sess := List.replicate s.nSess { buf := [], drop := false, vc := 0, ic := 0, wc := 0, cnt := 0 },
               tx := [], smp := [], acts := more, ops := if again then s.ops else s.ops.drop 1 }

/-- R33: every element after reset, for every number of sessions and every parameter, and `STATUS` reads 0. -/
def Obligations.ResetValues : Prop :=
  ∀ (n : Nat) (c : Config),
    (State.init n c).status = 0 ∧ (State.init n c).sticky = 0 ∧ (State.init n c).lastErr = 0 ∧
    (State.init n c).crcReg = 0x00 ∧ (State.init n c).encOpen = false ∧ (State.init n c).encRem = 0 ∧
    (State.init n c).encCrc = 0x00 ∧ (State.init n c).nSess = n ∧
    (State.init n c).tx = [] ∧ (State.init n c).smp = [] ∧
    ∀ ch : Byte, ((State.init n c).ctx ch).buf = [] ∧ ((State.init n c).ctx ch).drop = false ∧
      ((State.init n c).ctx ch).vc = 0 ∧ ((State.init n c).ctx ch).ic = 0 ∧
      ((State.init n c).ctx ch).wc = 0 ∧ ((State.init n c).ctx ch).cnt = 0

/-- R217: an operation held in a legal state is accepted once the host has drained both streams; while the host takes
nothing, it is held for ever. -/
def Obligations.DrainingReleasesTheHold : Prop :=
  (∀ (s : State) (w : Word) (rest : List Word), s.Inv → s.ops = w :: rest →
    s.acts = List.replicate s.tx.length .takeTx ++ List.replicate s.smp.length .takeSmp →
    ∃ t, core.run (s.tx.length + s.smp.length) s = .next t ∧ t.ops = w :: rest ∧ t.acts = [] ∧ held w t = false) ∧
  (∀ (s : State) (w : Word) (rest : List Word), s.ops = w :: rest → s.acts = [] → held w s = true →
    ∀ n, core.run n s = .next s)

/-- R220: no step depends on `OP_LATENCY`. -/
def Obligations.LatencyChangesNothing : Prop :=
  ∀ (s : State) (n : Nat),
    step { s with cfg := { s.cfg with opLatency := n } } =
      mapNext (fun t => { t with cfg := { t.cfg with opLatency := n } }) (step s)

/-- R43: with unbounded streams, the machine fed the words of a sequence of operations runs them one at a time, in the
order offered, each seeing every effect of the ones before. -/
def Obligations.RunIsOperationsInOrder : Prop :=
  ∀ (is : List Instr) (s : State), s.cfg.txDepth = none → s.cfg.smpDepth = none → s.acts = [] →
    s.ops = is.map encode → core.run is.length s = execAll is { s with ops := [] }

/-! ## System operations (44_system.md) -/

/-- R182: `SYS.NOP`. -/
def Obligations.SysNopRule : Prop :=
  encode .sysNop = 0x00000000#32 ∧
  (∀ w : Word, opcodeOf w = 0x00 → w.extractLsb' 0 24 ≠ 0 → UnusedFieldRaises w) ∧
  (∀ s, exec .sysNop s = .next { s with results := s.results ++ [0] }) ∧
  (∀ s, held (encode .sysNop) s = false)

/-- R180: `SYS.RDSTAT`. -/
def Obligations.SysRdstatRule : Prop :=
  encode .sysRdstat = 0x01000000#32 ∧
  (∀ w : Word, opcodeOf w = 0x01 → w.extractLsb' 0 24 ≠ 0 → UnusedFieldRaises w) ∧
  (∀ s, exec .sysRdstat s = .next { s with results := s.results ++
    [BitVec.ofNat 64 ((s.sticky.getLsbD 0).toNat ||| (s.sticky.getLsbD 1).toNat <<< 1 |||
      (s.sticky.getLsbD 2).toNat <<< 2 ||| (s.sticky.getLsbD 3).toNat <<< 3 |||
      s.lastErr.toNat <<< 8 ||| s.encOpen.toNat <<< 16)] })

/-- R181: `SYS.CLRSTAT`. -/
def Obligations.SysClrstatRule : Prop :=
  encode .sysClrstat = 0x02000000#32 ∧
  (∀ w : Word, opcodeOf w = 0x02 → w.extractLsb' 0 24 ≠ 0 → UnusedFieldRaises w) ∧
  (∀ s, exec .sysClrstat s = .next { s with sticky := 0, lastErr := 0, results := s.results ++ [0] })

/-! ## CRC unit (40_crc.md) -/

/-- R92: the table the spec prints is the step from 0, and one step is one lookup. -/
def Obligations.CrcTableForm : Prop :=
  (∀ i : Byte, crc8Byte 0x00 i = crcTable.getD i.toNat 0) ∧
  (∀ c b : Byte, crc8Byte c b = crcTable.getD (c ^^^ b).toNat 0)

/-- R94: the laws (a) to (f). -/
def Obligations.CrcLaws : Prop :=
  crc8 [] = 0x00 ∧ crc8 [0x08] = 0xB3 ∧
  (∀ p : List Byte, crc8 (p ++ [crc8 p]) = 0x00) ∧
  (∀ p q : List Byte, p.length = q.length → crc8 (List.zipWith (· ^^^ ·) p q) = crc8 p ^^^ crc8 q) ∧
  (∀ c : Byte, crc8Byte c 0x00 = c ↔ c = 0x00 ∨ c = 0x83) ∧
  (∀ c : Byte, ∃ b : Byte, crc8Byte c b = c ∧ ∀ b' : Byte, crc8Byte c b' = c → b' = b) ∧
  crc8 [0x31, 0x32, 0x33, 0x34, 0x35, 0x36, 0x37, 0x38, 0x39] = 0x2A

/-- R95: `CRC.CLR`. -/
def Obligations.CrcClrRule : Prop :=
  encode .crcClr = 0x10000000#32 ∧
  (∀ w : Word, opcodeOf w = 0x10 → w.extractLsb' 0 24 ≠ 0 → UnusedFieldRaises w) ∧
  (∀ s, exec .crcClr s = .next { s with crcReg := 0x00, results := s.results ++ [0] })

/-- R96: `CRC.BYTE B`. -/
def Obligations.CrcByteRule : Prop :=
  (∀ b : Byte, encode (.crcByte b) = 0x11000000#32 ||| b.setWidth 32) ∧
  (∀ w : Word, opcodeOf w = 0x11 → w.extractLsb' 8 16 ≠ 0 → UnusedFieldRaises w) ∧
  (∀ (b : Byte) (s : State),
    exec (.crcByte b) s = .next { s with crcReg := crc8Byte s.crcReg b, results := s.results ++ [0] }) ∧
  (crc8Byte 0x00 0x00 = 0x00 ∧ ∀ c : Byte, c ≠ 0x00 → (crc8Byte c 0x00 = c ↔ c = 0x83)) ∧
  (∀ p : List Byte, crc8Byte (crc8 p) (crc8 p) = 0x00)

/-- R97: `CRC.RD`; after `CRC.CLR` and the bytes of `p` it returns `crc8(p)`. -/
def Obligations.CrcRdRule : Prop :=
  encode .crcRd = 0x12000000#32 ∧
  (∀ w : Word, opcodeOf w = 0x12 → w.extractLsb' 0 24 ≠ 0 → UnusedFieldRaises w) ∧
  (∀ s, exec .crcRd s = .next { s with results := s.results ++ [BitVec.ofNat 64 s.crcReg.toNat] }) ∧
  (∀ (p : List Byte) (s : State), execAll (crcOps p) s = .next
    { s with crcReg := crc8 p,
             results := s.results ++ List.replicate (p.length + 1) 0 ++ [BitVec.ofNat 64 (crc8 p).toNat] })

/-! ## Encoder (41_encoder.md) -/

/-- R112: `ENC.HDR L`. -/
def Obligations.EncHdrRule : Prop :=
  (∀ len : BitVec 16, encode (.encHdr len) = 0x20000000#32 ||| len.setWidth 32) ∧
  (∀ w : Word, opcodeOf w = 0x20 → w.extractLsb' 16 8 ≠ 0 → UnusedFieldRaises w) ∧
  (∀ (len : BitVec 16) (s : State), s.encOpen = true → exec (.encHdr len) s = .next (afterError 0b0100#4 3 s)) ∧
  (∀ s : State, s.encOpen = false → exec (.encHdr 0) s = .next
    { s with tx := s.tx ++ [0xAA, 0x00, 0x00, 0x00], encCrc := 0x00, encRem := 0,
             results := s.results ++ [0] }) ∧
  (∀ (len : BitVec 16) (s : State), s.encOpen = false → len ≠ 0 → exec (.encHdr len) s = .next
    { s with tx := s.tx ++ [0xAA, BitVec.ofNat 8 (len.toNat / 256), BitVec.ofNat 8 (len.toNat % 256)],
             encCrc := 0x00, encRem := len, encOpen := true, results := s.results ++ [0] })

/-- R113: `ENC.BYTE B`; an open encoder holds `enc_rem >= 1` (10_state.md R26). -/
def Obligations.EncByteRule : Prop :=
  (∀ b : Byte, encode (.encByte b) = 0x21000000#32 ||| b.setWidth 32) ∧
  (∀ w : Word, opcodeOf w = 0x21 → w.extractLsb' 8 16 ≠ 0 → UnusedFieldRaises w) ∧
  (∀ (b : Byte) (s : State), s.encOpen = false → exec (.encByte b) s = .next (afterError 0b1000#4 4 s)) ∧
  (∀ (b : Byte) (s : State), s.encOpen = true → s.encRem.toNat = 1 → exec (.encByte b) s = .next
    { s with tx := s.tx ++ [b, crc8Byte s.encCrc b], encCrc := crc8Byte s.encCrc b, encRem := 0,
             encOpen := false, results := s.results ++ [0] }) ∧
  (∀ (b : Byte) (s : State), s.encOpen = true → 1 < s.encRem.toNat → exec (.encByte b) s = .next
    { s with tx := s.tx ++ [b], encCrc := crc8Byte s.encCrc b,
             encRem := BitVec.ofNat 16 (s.encRem.toNat - 1), results := s.results ++ [0] })

/-- R114: `ENC.ABORT`; TX keeps what was emitted. -/
def Obligations.EncAbortRule : Prop :=
  encode .encAbort = 0x22000000#32 ∧
  (∀ w : Word, opcodeOf w = 0x22 → w.extractLsb' 0 24 ≠ 0 → UnusedFieldRaises w) ∧
  (∀ s, exec .encAbort s = .next
    { s with encOpen := false, encRem := 0, encCrc := 0x00, results := s.results ++ [0] })

/-- R115: `ENC.RD`. -/
def Obligations.EncRdRule : Prop :=
  encode .encRd = 0x23000000#32 ∧
  (∀ w : Word, opcodeOf w = 0x23 → w.extractLsb' 0 24 ≠ 0 → UnusedFieldRaises w) ∧
  (∀ s, exec .encRd s = .next { s with results := s.results ++
    [BitVec.ofNat 64 (s.encCrc.toNat <<< 24 ||| s.encOpen.toNat <<< 16 ||| s.encRem.toNat)] })

/-- R110, R111: the reference encoder's frame and its laws; more than 65535 bytes is `SizeOverflow`. -/
def Obligations.CommandFrameLaws : Prop :=
  (∀ p : List Byte, 65535 < p.length → encodeCommand p = .error .sizeOverflow) ∧
  (∀ p : List Byte, p.length ≤ 65535 → ∃ f : List Byte, encodeCommand p = .ok f ∧
    f.length = p.length + 4 ∧ f.getD 0 0 = 0xAA ∧
    (f.getD 1 0).toNat * 256 + (f.getD 2 0).toNat = p.length ∧
    (f.drop 3).take p.length = p ∧ f.drop (p.length + 3) = [crc8 p]) ∧
  encodeCommand [] = .ok [0xAA, 0x00, 0x00, 0x00]

/-- R116: the port's operations emit exactly `encode_command(P)`, with no error and an idle encoder after it; operations
of other units in between change nothing of that. -/
def Obligations.EncoderPortEqualsReference : Prop :=
  ∀ (p f : List Byte), encodeCommand p = .ok f →
    (∀ s : State, s.encOpen = false → execAll (frameOps p) s = .next
      { s with tx := s.tx ++ f, encOpen := false, encRem := 0, encCrc := crc8 p,
               results := s.results ++ List.replicate (p.length + 1) 0 }) ∧
    (∀ (s : State) (is : List Instr), s.encOpen = false → is.filter isEnc = frameOps p →
      ∃ t, execAll is s = .next t ∧ t.tx = s.tx ++ f ∧ t.encOpen = false ∧ t.encRem = 0 ∧ t.encCrc = crc8 p)

/-- 41_encoder.md R118: the start-monitoring frame, from the reference function, the assembler and the port. -/
def Obligations.StartMonitoringFrame : Prop :=
  encodeCommand [0x08] = .ok [0xAA, 0x00, 0x01, 0x08, 0xB3] ∧
  assembleText "enc.start_monitor" = .ok [0x20000001#32, 0x21000008#32] ∧
  (∀ s : State, s.encOpen = false → ∃ t, execAll (frameOps [0x08]) s = .next t ∧
    t.tx = s.tx ++ [0xAA, 0x00, 0x01, 0x08, 0xB3])

/-! ## Reassembler (42_reassembler.md) -/

/-- R133, R134: `RSM.FIRST CH, B`. A marker byte discards the partial frame; the 23rd byte completes a frame. -/
def Obligations.RsmFirstRule : Prop :=
  (∀ ch b : Byte, encode (.rsmFirst ch b) = 0x30000000#32 ||| (ch.setWidth 32 <<< 16) ||| b.setWidth 32) ∧
  (∀ w : Word, opcodeOf w = 0x30 → w.extractLsb' 8 8 ≠ 0 → UnusedFieldRaises w) ∧
  (∀ (ch b : Byte) (s : State), s.nSess ≤ ch.toNat → exec (.rsmFirst ch b) s = .next (afterError 0b0010#4 2 s)) ∧
  (∀ (ch : Byte) (s : State), ch.toNat < s.nSess → exec (.rsmFirst ch 0xAA) s = .next
    { s with sess := s.sess.set ch.toNat { s.ctx ch with drop := false, buf := [0xAA] },
             results := s.results ++ [0] }) ∧
  (∀ (ch b : Byte) (s : State), ch.toNat < s.nSess → b ≠ 0xAA → (s.ctx ch).buf.length ≠ 22 →
    exec (.rsmFirst ch b) s = .next
      { s with sess := s.sess.set ch.toNat { s.ctx ch with drop := false, buf := (s.ctx ch).buf ++ [b] },
               results := s.results ++ [0] }) ∧
  (∀ (ch b : Byte) (s : State) (f : List Byte), ch.toNat < s.nSess → b ≠ 0xAA → (s.ctx ch).buf.length = 22 →
    f = (s.ctx ch).buf ++ [b] → exec (.rsmFirst ch b) s = .next
      { s with sess := s.sess.set ch.toNat
                 { buf := [], drop := true, vc := le48 f 5, ic := le48 f 11, wc := le48 f 17,
                   cnt := (s.ctx ch).cnt + 1 },
               smp := s.smp ++ [{ ch := ch, frame := f, vcode := le48 f 5, icode := le48 f 11, wcode := le48 f 17,
                                  vbits := bits64 (le48 f 5) 24, ibits := bits64 (le48 f 11) 30,
                                  wbits := bits64 (le48 f 17) 24 }],
               results := s.results ++ [0] })

/-- R133, R135: `RSM.NEXT CH, B`. 0xAA is data here; a dropped byte changes nothing; the 23rd byte completes a frame. -/
def Obligations.RsmNextRule : Prop :=
  (∀ ch b : Byte, encode (.rsmNext ch b) = 0x31000000#32 ||| (ch.setWidth 32 <<< 16) ||| b.setWidth 32) ∧
  (∀ w : Word, opcodeOf w = 0x31 → w.extractLsb' 8 8 ≠ 0 → UnusedFieldRaises w) ∧
  (∀ (ch b : Byte) (s : State), s.nSess ≤ ch.toNat → exec (.rsmNext ch b) s = .next (afterError 0b0010#4 2 s)) ∧
  (∀ (ch b : Byte) (s : State), ch.toNat < s.nSess → (s.ctx ch).drop = true →
    exec (.rsmNext ch b) s = .next { s with results := s.results ++ [0] }) ∧
  (∀ (ch b : Byte) (s : State), ch.toNat < s.nSess → (s.ctx ch).drop = false → (s.ctx ch).buf.length ≠ 22 →
    exec (.rsmNext ch b) s = .next
      { s with sess := s.sess.set ch.toNat { s.ctx ch with buf := (s.ctx ch).buf ++ [b] },
               results := s.results ++ [0] }) ∧
  (∀ (ch b : Byte) (s : State) (f : List Byte), ch.toNat < s.nSess → (s.ctx ch).drop = false →
    (s.ctx ch).buf.length = 22 → f = (s.ctx ch).buf ++ [b] → exec (.rsmNext ch b) s = .next
      { s with sess := s.sess.set ch.toNat
                 { buf := [], drop := true, vc := le48 f 5, ic := le48 f 11, wc := le48 f 17,
                   cnt := (s.ctx ch).cnt + 1 },
               smp := s.smp ++ [{ ch := ch, frame := f, vcode := le48 f 5, icode := le48 f 11, wcode := le48 f 17,
                                  vbits := bits64 (le48 f 5) 24, ibits := bits64 (le48 f 11) 30,
                                  wbits := bits64 (le48 f 17) 24 }],
               results := s.results ++ [0] })

/-- R139: `RSM.CLR CH`; the decoder registers and every other session stay. -/
def Obligations.RsmClrRule : Prop :=
  (∀ ch : Byte, encode (.rsmClr ch) = 0x32000000#32 ||| (ch.setWidth 32 <<< 16)) ∧
  (∀ w : Word, opcodeOf w = 0x32 → w.extractLsb' 0 16 ≠ 0 → UnusedFieldRaises w) ∧
  (∀ (ch : Byte) (s : State), s.nSess ≤ ch.toNat → exec (.rsmClr ch) s = .next (afterError 0b0010#4 2 s)) ∧
  (∀ (ch : Byte) (s : State), ch.toNat < s.nSess → exec (.rsmClr ch) s = .next
    { s with sess := s.sess.set ch.toNat { s.ctx ch with buf := [], drop := false },
             results := s.results ++ [0] })

/-- R137: `RSM.RD CH`, with the fields of its result for a buffer of at most 22 bytes (10_state.md R27). -/
def Obligations.RsmRdRule : Prop :=
  (∀ ch : Byte, encode (.rsmRd ch) = 0x33000000#32 ||| (ch.setWidth 32 <<< 16)) ∧
  (∀ w : Word, opcodeOf w = 0x33 → w.extractLsb' 0 16 ≠ 0 → UnusedFieldRaises w) ∧
  (∀ (ch : Byte) (s : State), s.nSess ≤ ch.toNat → exec (.rsmRd ch) s = .next (afterError 0b0010#4 2 s)) ∧
  (∀ (ch : Byte) (s : State), ch.toNat < s.nSess → ∃ v : Res,
    exec (.rsmRd ch) s = .next { s with results := s.results ++ [v] } ∧
    v = BitVec.ofNat 64 ((s.ctx ch).drop.toNat <<< 8 ||| (s.ctx ch).buf.length) ∧
    ((s.ctx ch).buf.length ≤ 22 → (v.extractLsb' 0 5).toNat = (s.ctx ch).buf.length ∧ v.extractLsb' 5 3 = 0 ∧
      v.getLsbD 8 = (s.ctx ch).drop ∧ v.extractLsb' 9 55 = 0))

/-- R138: `RSM.RDBUF CH, k`, for every k; 0 at or above the length. -/
def Obligations.RsmRdbufRule : Prop :=
  (∀ ch k : Byte, encode (.rsmRdbuf ch k) = 0x34000000#32 ||| (ch.setWidth 32 <<< 16) ||| k.setWidth 32) ∧
  (∀ w : Word, opcodeOf w = 0x34 → w.extractLsb' 8 8 ≠ 0 → UnusedFieldRaises w) ∧
  (∀ (ch k : Byte) (s : State), s.nSess ≤ ch.toNat → exec (.rsmRdbuf ch k) s = .next (afterError 0b0010#4 2 s)) ∧
  (∀ (ch k : Byte) (s : State) (b : Byte), ch.toNat < s.nSess → (s.ctx ch).buf[k.toNat]? = some b →
    exec (.rsmRdbuf ch k) s = .next { s with results := s.results ++ [BitVec.ofNat 64 b.toNat] }) ∧
  (∀ (ch k : Byte) (s : State), ch.toNat < s.nSess → (s.ctx ch).buf.length ≤ k.toNat →
    exec (.rsmRdbuf ch k) s = .next { s with results := s.results ++ [0] })

/-- R140: any sequence of chunks, issued as R215 asks, gives the buffer and the frames of repeated `rsm_ref`; after one
non-empty chunk `rsm_drop` says whether it completed a frame. Empty chunks issue nothing (R141). -/
def Obligations.ReassemblerEqualsReference : Prop :=
  ∀ (ch : Byte) (s : State), ch.toNat < s.nSess → (s.ctx ch).buf.length ≤ 22 →
    (∀ chunks : List (List Byte), ∃ t, execAll (chunks.flatMap (chunkOps ch)) s = .next t ∧
      (t.ctx ch).buf = (rsmRefAll (s.ctx ch).buf chunks).1 ∧
      t.smp = s.smp ++ (rsmRefAll (s.ctx ch).buf chunks).2.map (sampleEvent ch)) ∧
    (∀ chunk : List Byte, chunk ≠ [] → ∃ t, execAll (chunkOps ch chunk) s = .next t ∧
      (t.ctx ch).buf = (rsmRef (s.ctx ch).buf chunk).1 ∧
      t.smp = s.smp ++ (rsmRef (s.ctx ch).buf chunk).2.toList.map (sampleEvent ch) ∧
      (t.ctx ch).drop = (rsmRef (s.ctx ch).buf chunk).2.isSome)

/-- R136: the bytes of a chunk after its completed frame are dropped, 0xAA among them, and the next chunk starts from an
empty buffer. -/
def Obligations.RestOfChunkIsDropped : Prop :=
  ∀ (ch : Byte) (s : State) (rest : List Byte), s.Inv → ch.toNat < s.nSess → (s.ctx ch).drop = true →
    execAll (rest.map (.rsmNext ch)) s = .next { s with results := s.results ++ List.replicate rest.length 0 } ∧
    (∀ b : Byte, ∃ t, execAll (rest.map (.rsmNext ch) ++ [.rsmFirst ch b]) s = .next t ∧
      (t.ctx ch).buf = [b] ∧ (t.ctx ch).drop = false ∧ t.smp = s.smp)

/-- R143: any split of a 23-byte frame that begins with the marker yields exactly that frame, from any prior state. -/
def Obligations.SplitsYieldTheFrame : Prop :=
  ∀ (ch : Byte) (s : State) (first : List Byte) (more : List (List Byte)), ch.toNat < s.nSess →
    first.head? = some 0xAA → (∀ c ∈ more, c ≠ [] ∧ c.head? ≠ some 0xAA) → (first ++ more.flatten).length = 23 →
    ∃ t, execAll ((first :: more).flatMap (chunkOps ch)) s = .next t ∧
      t.smp = s.smp ++ [sampleEvent ch (first ++ more.flatten)] ∧ (t.ctx ch).buf = [] ∧
      (t.ctx ch).cnt = (s.ctx ch).cnt + 1

/-! ## Decoder (43_decoder.md) -/

/-- R151, R152: a field is its six bytes little-endian, zero-extended; its code is below 2^48 and non-negative as a
64-bit signed number. -/
def Obligations.FieldIsLittleEndianUnsigned : Prop :=
  ∀ (f : List Byte) (o : Nat), o + 6 ≤ f.length →
    (le48 f o).toNat = (f.getD o 0).toNat + (f.getD (o + 1) 0).toNat * 2 ^ 8 + (f.getD (o + 2) 0).toNat * 2 ^ 16 +
      (f.getD (o + 3) 0).toNat * 2 ^ 24 + (f.getD (o + 4) 0).toNat * 2 ^ 32 + (f.getD (o + 5) 0).toNat * 2 ^ 40 ∧
    (le48 f o).toNat ≤ 2 ^ 48 - 1 ∧ (le48 f o).extractLsb' 48 16 = 0 ∧ (le48 f o).toInt = (le48 f o).toNat

/-- R154: bytes 0 to 4 of a frame do not enter `decode`; they appear only in the event's `frame`. -/
def Obligations.FirstBytesDoNotDecode : Prop :=
  ∀ f g : List Byte, f.length = 23 → g.length = 23 → f.drop 5 = g.drop 5 →
    decodeFrame f = decodeFrame g ∧ ∀ ch : Byte, sampleEvent ch f = { sampleEvent ch g with frame := f }

/-- R156: the bit pattern of a decoded value: +0.0 for code 0, else sign 0, the biased exponent in its range, and the
code's bits below its leading 1 as the fraction. -/
def Obligations.DecodedBitPattern : Prop :=
  (∀ k : Nat, bits64 0 k = 0) ∧
  (∀ (c : Res) (k : Nat), c ≠ 0 → c.toNat < 2 ^ 48 → (k = 24 ∨ k = 30) → ∃ e : Nat,
    2 ^ e ≤ c.toNat ∧ c.toNat < 2 ^ (e + 1) ∧ e ≤ 47 ∧
    (bits64 c k).toNat = (e + 1023 - k) * 2 ^ 52 + (c.toNat * 2 ^ (52 - e) - 2 ^ 52) ∧
    (bits64 c k).getLsbD 63 = false ∧
    1023 - k ≤ ((bits64 c k).extractLsb' 52 11).toNat ∧ ((bits64 c k).extractLsb' 52 11).toNat ≤ 1070 - k)

/-- R157: every code decodes exactly, `c * 2^-24` or `c * 2^-30`, with no rounding; the conversion of the code itself
is exact too. -/
def Obligations.DecodedValueIsExact : Prop :=
  ∀ c : Res, c.toNat < 2 ^ 48 →
    f64Value (bits64 c 0) = some (c.toNat : Rat) ∧
    f64Value (bits64 c 24) = some ((c.toNat : Rat) / 2 ^ 24) ∧
    f64Value (bits64 c 30) = some ((c.toNat : Rat) / 2 ^ 30)

/-- 43_decoder.md R158: a voltage or wattage code with bit 47 set decodes to a large positive value, read through
`f64Value` (log entry 13); DecodedValueIsExact covers the current's scale. -/
def Obligations.BitFortySevenIsNotASign : Prop :=
  (∀ c : Res, 2 ^ 47 ≤ c.toNat → c.toNat < 2 ^ 48 →
    ∃ q : Rat, f64Value (bits64 c 24) = some q ∧ 8388608 ≤ q ∧ q < 16777216) ∧
  bits64 0xFFFFFFFFFFFF 24 = 0x416FFFFFFFFFFFE0 ∧ f64Value (bits64 0x800000000000 24) = some 8388608

/-- R161 to R167: the decoder's read operations: encoding, errors, results; after reset every one returns 0; a code's
bits 63:48 are 0 in a legal state. -/
def Obligations.DecReadRules : Prop :=
  (∀ ch : Byte, encode (.decRdvc ch) = 0x40000000#32 ||| (ch.setWidth 32 <<< 16) ∧
    encode (.decRdic ch) = 0x41000000#32 ||| (ch.setWidth 32 <<< 16) ∧
    encode (.decRdwc ch) = 0x42000000#32 ||| (ch.setWidth 32 <<< 16) ∧
    encode (.decRdvf ch) = 0x43000000#32 ||| (ch.setWidth 32 <<< 16) ∧
    encode (.decRdif ch) = 0x44000000#32 ||| (ch.setWidth 32 <<< 16) ∧
    encode (.decRdwf ch) = 0x45000000#32 ||| (ch.setWidth 32 <<< 16) ∧
    encode (.decRdcnt ch) = 0x46000000#32 ||| (ch.setWidth 32 <<< 16)) ∧
  (∀ w : Word, 0x40 ≤ (opcodeOf w).toNat → (opcodeOf w).toNat ≤ 0x46 → w.extractLsb' 0 16 ≠ 0 →
    UnusedFieldRaises w) ∧
  (∀ (ch : Byte) (s : State), s.nSess ≤ ch.toNat →
    ∀ i ∈ [Instr.decRdvc ch, .decRdic ch, .decRdwc ch, .decRdvf ch, .decRdif ch, .decRdwf ch, .decRdcnt ch],
      exec i s = .next (afterError 0b0010#4 2 s)) ∧
  (∀ (ch : Byte) (s : State), ch.toNat < s.nSess →
    exec (.decRdvc ch) s = .next { s with results := s.results ++ [(s.ctx ch).vc] } ∧
    exec (.decRdic ch) s = .next { s with results := s.results ++ [(s.ctx ch).ic] } ∧
    exec (.decRdwc ch) s = .next { s with results := s.results ++ [(s.ctx ch).wc] } ∧
    exec (.decRdvf ch) s = .next { s with results := s.results ++ [bits64 (s.ctx ch).vc 24] } ∧
    exec (.decRdif ch) s = .next { s with results := s.results ++ [bits64 (s.ctx ch).ic 30] } ∧
    exec (.decRdwf ch) s = .next { s with results := s.results ++ [bits64 (s.ctx ch).wc 24] } ∧
    exec (.decRdcnt ch) s = .next { s with results := s.results ++ [BitVec.ofNat 64 (s.ctx ch).cnt.toNat] }) ∧
  (∀ (n : Nat) (c : Config) (ch : Byte), ch.toNat < n →
    ∀ i ∈ [Instr.decRdvc ch, .decRdic ch, .decRdwc ch, .decRdvf ch, .decRdif ch, .decRdwf ch, .decRdcnt ch],
      exec i (State.init n c) = .next { State.init n c with results := [0] }) ∧
  (∀ (ch : Byte) (s : State), s.Inv → ch.toNat < s.nSess →
    (s.ctx ch).vc.extractLsb' 48 16 = 0 ∧ (s.ctx ch).ic.extractLsb' 48 16 = 0 ∧ (s.ctx ch).wc.extractLsb' 48 16 = 0)

/-! ## Whole-machine rules -/

/-- The invariant of Safety.lean (10_state.md R26, R27, R29; 20_memory.md R45; 60_exceptions.md R190; 00_scope.md R8) is
kept by every step, whatever the host does. -/
def Obligations.StepKeepsInvariant : Prop :=
  ∀ s t : State, s.Inv → step s = .next t → t.Inv

/-- The invariant holds after reset, for every instance in the ranges of 00_scope.md R8. -/
def Obligations.ResetMeetsInvariant : Prop :=
  (∀ (n : Nat) (c : Config), 1 ≤ n → n ≤ 256 → c.legal = true → (State.init n c).Inv) ∧ State.reset.Inv

/-- No step changes the parameters or the number of sessions (10_state.md, introduction). -/
def Obligations.ParametersAreFixed : Prop :=
  ∀ s t : State, step s = .next t → t.cfg = s.cfg ∧ t.nSess = s.nSess

/-- R30: an operation changes no context but that of its `CH`, and what it does there and elsewhere does not depend on
any other context. -/
def Obligations.SessionsAreIsolated : Prop :=
  (∀ (i : Instr) (s t : State) (k : Byte), i.session? ≠ some k → exec i s = .next t → t.ctx k = s.ctx k) ∧
  (∀ (i : Instr) (s : State) (k : Byte) (c : Session), i.session? ≠ some k →
    exec i { s with sess := s.sess.set k.toNat c } =
      mapNext (fun t => { t with sess := t.sess.set k.toNat c }) (exec i s))

/-- R48: the state of session `ch`, its events and its results depend only on the operations whose `CH` is `ch`; so two
interleavings of the same per-session sequences agree on every session. -/
def Obligations.SessionDependsOnItsOperations : Prop :=
  (∀ (is : List Instr) (s : State) (ch : Byte), ∃ (t u : State) (rs qs : List Res),
    execAll is s = .next t ∧ execAll (is.filter (onSession ch)) s = .next u ∧
    t.ctx ch = u.ctx ch ∧ eventsOf ch t.smp = eventsOf ch u.smp ∧
    t.results = s.results ++ rs ∧ u.results = s.results ++ qs ∧ resultsOf ch is rs = qs) ∧
  (∀ (is js : List Instr) (s t u : State), (∀ ch, is.filter (onSession ch) = js.filter (onSession ch)) →
    execAll is s = .next t → execAll js s = .next u →
    ∀ ch : Byte, t.ctx ch = u.ctx ch ∧ eventsOf ch t.smp = eventsOf ch u.smp)

/-- The frame of every unit: an operation of one unit leaves the state of the others, the parameters and the host's side
as they were (10_state.md R25, R26, R27, R29; 92_eei_decisions.md D10). -/
def Obligations.UnitsTouchOnlyTheirState : Prop :=
  ∀ (i : Instr) (s t : State), exec i s = .next t →
    (t.cfg = s.cfg ∧ t.ops = s.ops ∧ t.acts = s.acts ∧ t.txTaken = s.txTaken ∧ t.smpTaken = s.smpTaken) ∧
    (i ≠ .crcClr → (∀ b, i ≠ .crcByte b) → t.crcReg = s.crcReg) ∧
    (isEnc i = false → t.encOpen = s.encOpen ∧ t.encRem = s.encRem ∧ t.encCrc = s.encCrc ∧ t.tx = s.tx) ∧
    (i.session? = none → t.sess = s.sess ∧ t.smp = s.smp) ∧
    ((∀ ch b, i ≠ .rsmFirst ch b ∧ i ≠ .rsmNext ch b) → t.smp = s.smp ∧
      ∀ k : Byte, (t.ctx k).vc = (s.ctx k).vc ∧ (t.ctx k).ic = (s.ctx k).ic ∧ (t.ctx k).wc = (s.ctx k).wc ∧
        (t.ctx k).cnt = (s.ctx k).cnt) ∧
    (isRead i = true ∨ i = .sysNop → t.sess = s.sess ∧ t.smp = s.smp ∧ t.tx = s.tx ∧ t.crcReg = s.crcReg ∧
      t.encOpen = s.encOpen ∧ t.encRem = s.encRem ∧ t.encCrc = s.encCrc)

/-- 20_memory.md R50: a read operation without an error has no side effect and returns the same result twice;
`CRC.CLR`, `ENC.ABORT`, `RSM.CLR` and `SYS.CLRSTAT` a second time change nothing more; an error repeated leaves the same
`STATUS`. -/
def Obligations.IdempotentOperations : Prop :=
  (∀ (i : Instr) (s : State), isRead i = true → (∀ ch, i.session? = some ch → ch.toNat < s.nSess) →
    ∃ v : Res, exec i s = .next { s with results := s.results ++ [v] } ∧
      execAll [i, i] s = .next { s with results := s.results ++ [v, v] }) ∧
  (∀ (i : Instr) (s : State), (i = .crcClr ∨ i = .encAbort ∨ (∃ ch, i = .rsmClr ch) ∨ i = .sysClrstat) →
    ∃ t, exec i s = .next t ∧ exec i t = .next { t with results := t.results ++ [0] }) ∧
  (∀ (w : Word) (s : State), ∀ e ∈ [(0b0001#4, 1), (0b0010#4, 2), (0b0100#4, 3), (0b1000#4, (4 : Byte))],
    Raises e.1 e.2 w s →
    ∃ u, accept w (afterError e.1 e.2 s) = .next u ∧ u.status = (afterError e.1 e.2 s).status)

/-! ## Assembler (30_encoding.md R74, R75) -/

/-- R74: the operand forms of the operations, and the refusal of an operand out of its field's range; a `CH` at or above
`N_SESS` assembles. -/
def Obligations.OperandFormsAssemble : Prop :=
  (assembleLine ⟨"sys.nop", []⟩ = .ok [.sysNop] ∧ assembleLine ⟨"sys.rdstat", []⟩ = .ok [.sysRdstat] ∧
    assembleLine ⟨"sys.clrstat", []⟩ = .ok [.sysClrstat] ∧ assembleLine ⟨"crc.clr", []⟩ = .ok [.crcClr] ∧
    assembleLine ⟨"crc.rd", []⟩ = .ok [.crcRd] ∧ assembleLine ⟨"enc.abort", []⟩ = .ok [.encAbort] ∧
    assembleLine ⟨"enc.rd", []⟩ = .ok [.encRd]) ∧
  (∀ n : Nat,
    assembleLine ⟨"crc.byte", [n]⟩ =
      (if n ≤ 255 then .ok [.crcByte (BitVec.ofNat 8 n)] else .error .operandRange) ∧
    assembleLine ⟨"enc.byte", [n]⟩ =
      (if n ≤ 255 then .ok [.encByte (BitVec.ofNat 8 n)] else .error .operandRange) ∧
    assembleLine ⟨"enc.hdr", [n]⟩ =
      (if n ≤ 65535 then .ok [.encHdr (BitVec.ofNat 16 n)] else .error .operandRange)) ∧
  (∀ ch n : Nat,
    assembleLine ⟨"rsm.first", [ch, n]⟩ = (if ch ≤ 255 ∧ n ≤ 255 then
      .ok [.rsmFirst (BitVec.ofNat 8 ch) (BitVec.ofNat 8 n)] else .error .operandRange) ∧
    assembleLine ⟨"rsm.next", [ch, n]⟩ = (if ch ≤ 255 ∧ n ≤ 255 then
      .ok [.rsmNext (BitVec.ofNat 8 ch) (BitVec.ofNat 8 n)] else .error .operandRange) ∧
    assembleLine ⟨"rsm.rdbuf", [ch, n]⟩ = (if ch ≤ 255 ∧ n ≤ 255 then
      .ok [.rsmRdbuf (BitVec.ofNat 8 ch) (BitVec.ofNat 8 n)] else .error .operandRange)) ∧
  (∀ ch : Nat, ∀ m ∈ [("rsm.clr", Instr.rsmClr), ("rsm.rd", .rsmRd), ("dec.rdvc", .decRdvc), ("dec.rdic", .decRdic),
      ("dec.rdwc", .decRdwc), ("dec.rdvf", .decRdvf), ("dec.rdif", .decRdif), ("dec.rdwf", .decRdwf),
      ("dec.rdcnt", .decRdcnt)],
    assembleLine ⟨m.1, [ch]⟩ =
      (if ch ≤ 255 then .ok [m.2 (BitVec.ofNat 8 ch)] else .error .operandRange))

/-- R75: the expansions of the pseudo-operations, and the refusal of a payload above 65535 bytes. -/
def Obligations.PseudoOperationsExpand : Prop :=
  (∀ p : List Nat, (∀ n ∈ p, n ≤ 255) →
    assembleLine ⟨"crc.bytes", p⟩ = .ok (p.map fun n => .crcByte (BitVec.ofNat 8 n)) ∧
    assembleLine ⟨"crc.compute", p⟩ =
      .ok (.crcClr :: (p.map fun n => .crcByte (BitVec.ofNat 8 n)) ++ [.crcRd]) ∧
    (p.length ≤ 65535 → assembleLine ⟨"enc.frame", p⟩ =
      .ok (.encHdr (BitVec.ofNat 16 p.length) :: p.map fun n => .encByte (BitVec.ofNat 8 n))) ∧
    (65535 < p.length → assembleLine ⟨"enc.frame", p⟩ = .error .sizeOverflow) ∧
    (∀ ch : Nat, ch ≤ 255 → assembleLine ⟨"rsm.chunk", [ch]⟩ = .ok [] ∧
      ∀ b : Nat, b ≤ 255 → assembleLine ⟨"rsm.chunk", ch :: b :: p⟩ =
        .ok (.rsmFirst (BitVec.ofNat 8 ch) (BitVec.ofNat 8 b) ::
          p.map fun n => .rsmNext (BitVec.ofNat 8 ch) (BitVec.ofNat 8 n)))) ∧
  assembleLine ⟨"enc.start_monitor", []⟩ = .ok [.encHdr 1, .encByte 0x08]
end

