-- ==== Sys2Proof/Laws/Decode.lean ====
section
/-! SUPPORT. The fields of a word built from fields, and the word rebuilt from its fields (30_encoding.md R60, R61). -/

namespace Sys2Proof

@[simp] theorem unitOf_mkWord (u f : BitVec 4) (ch : Byte) (imm : BitVec 16) : unitOf (mkWord u f ch imm) = u := by
  apply BitVec.eq_of_getLsbD_eq
  intro i hi
  simp [unitOf, mkWord]
  grind

@[simp] theorem funcOf_mkWord (u f : BitVec 4) (ch : Byte) (imm : BitVec 16) : funcOf (mkWord u f ch imm) = f := by
  apply BitVec.eq_of_getLsbD_eq
  intro i hi
  simp [funcOf, mkWord]
  grind

@[simp] theorem chOf_mkWord (u f : BitVec 4) (ch : Byte) (imm : BitVec 16) : chOf (mkWord u f ch imm) = ch := by
  apply BitVec.eq_of_getLsbD_eq
  intro i hi
  simp [chOf, mkWord]
  grind

@[simp] theorem immOf_mkWord (u f : BitVec 4) (ch : Byte) (imm : BitVec 16) : immOf (mkWord u f ch imm) = imm := by
  apply BitVec.eq_of_getLsbD_eq
  intro i hi
  simp [immOf, mkWord]
  grind

@[simp] theorem byteOf_mkWord (u f : BitVec 4) (ch b : Byte) : byteOf (mkWord u f ch (immByte b)) = b := by
  apply BitVec.eq_of_getLsbD_eq
  intro i hi
  simp [byteOf, mkWord, immByte]
  grind

/-- A word is its four fields. -/
theorem mkWord_fields (w : Word) : mkWord (unitOf w) (funcOf w) (chOf w) (immOf w) = w := by
  apply BitVec.eq_of_getLsbD_eq
  intro i hi
  simp [unitOf, funcOf, chOf, immOf, mkWord]
  grind

/-- `AND` works field by field. -/
theorem mkWord_and (u f u' f' : BitVec 4) (ch ch' : Byte) (imm imm' : BitVec 16) :
    mkWord u f ch imm &&& mkWord u' f' ch' imm' = mkWord (u &&& u') (f &&& f') (ch &&& ch') (imm &&& imm') := by
  apply BitVec.eq_of_getLsbD_eq
  intro i hi
  simp [mkWord]
  grind

/-- Words are equal exactly when their fields are. -/
theorem mkWord_inj {u f u' f' : BitVec 4} {ch ch' : Byte} {imm imm' : BitVec 16} :
    mkWord u f ch imm = mkWord u' f' ch' imm' ↔ u = u' ∧ f = f' ∧ ch = ch' ∧ imm = imm' := by
  constructor
  · intro h
    exact ⟨by simpa using congrArg unitOf h, by simpa using congrArg funcOf h,
      by simpa using congrArg chOf h, by simpa using congrArg immOf h⟩
  · rintro ⟨rfl, rfl, rfl, rfl⟩
    rfl

/-- The low byte of an immediate whose high byte is masked off. -/
theorem immByte_mask (b : Byte) : immByte b &&& 0xFF00#16 = 0#16 := by
  apply BitVec.eq_of_getLsbD_eq
  intro i hi
  have h : ∀ j : Fin 16, (0xFF00#16).getLsbD j = true → 8 ≤ j.val := by decide
  have := h ⟨i, hi⟩
  simp [immByte]
  grind

end Sys2Proof
end

