-- ==== Sys2Proof/Laws/State.lean ====
section
/-! SUPPORT. One lemma per field per named update of the state, so that no proof unfolds a record update. -/

namespace Sys2Proof.Machine

section
variable (s : State)

/-! ## `State.ret` -/

@[simp] theorem State.ret_cfg (v : Res) : (s.ret v).cfg = s.cfg := rfl
@[simp] theorem State.ret_sticky (v : Res) : (s.ret v).sticky = s.sticky := rfl
@[simp] theorem State.ret_lastErr (v : Res) : (s.ret v).lastErr = s.lastErr := rfl
@[simp] theorem State.ret_crcReg (v : Res) : (s.ret v).crcReg = s.crcReg := rfl
@[simp] theorem State.ret_encOpen (v : Res) : (s.ret v).encOpen = s.encOpen := rfl
@[simp] theorem State.ret_encRem (v : Res) : (s.ret v).encRem = s.encRem := rfl
@[simp] theorem State.ret_encCrc (v : Res) : (s.ret v).encCrc = s.encCrc := rfl
@[simp] theorem State.ret_sess (v : Res) : (s.ret v).sess = s.sess := rfl
@[simp] theorem State.ret_tx (v : Res) : (s.ret v).tx = s.tx := rfl
@[simp] theorem State.ret_smp (v : Res) : (s.ret v).smp = s.smp := rfl
@[simp] theorem State.ret_results (v : Res) : (s.ret v).results = s.results ++ [v] := rfl
@[simp] theorem State.ret_ops (v : Res) : (s.ret v).ops = s.ops := rfl
@[simp] theorem State.ret_acts (v : Res) : (s.ret v).acts = s.acts := rfl
@[simp] theorem State.ret_txTaken (v : Res) : (s.ret v).txTaken = s.txTaken := rfl
@[simp] theorem State.ret_smpTaken (v : Res) : (s.ret v).smpTaken = s.smpTaken := rfl

/-! ## `State.emitTx` -/

@[simp] theorem State.emitTx_cfg (b : Byte) : (s.emitTx b).cfg = s.cfg := rfl
@[simp] theorem State.emitTx_sticky (b : Byte) : (s.emitTx b).sticky = s.sticky := rfl
@[simp] theorem State.emitTx_lastErr (b : Byte) : (s.emitTx b).lastErr = s.lastErr := rfl
@[simp] theorem State.emitTx_crcReg (b : Byte) : (s.emitTx b).crcReg = s.crcReg := rfl
@[simp] theorem State.emitTx_encOpen (b : Byte) : (s.emitTx b).encOpen = s.encOpen := rfl
@[simp] theorem State.emitTx_encRem (b : Byte) : (s.emitTx b).encRem = s.encRem := rfl
@[simp] theorem State.emitTx_encCrc (b : Byte) : (s.emitTx b).encCrc = s.encCrc := rfl
@[simp] theorem State.emitTx_sess (b : Byte) : (s.emitTx b).sess = s.sess := rfl
@[simp] theorem State.emitTx_tx (b : Byte) : (s.emitTx b).tx = s.tx ++ [b] := rfl
@[simp] theorem State.emitTx_smp (b : Byte) : (s.emitTx b).smp = s.smp := rfl
@[simp] theorem State.emitTx_results (b : Byte) : (s.emitTx b).results = s.results := rfl
@[simp] theorem State.emitTx_ops (b : Byte) : (s.emitTx b).ops = s.ops := rfl
@[simp] theorem State.emitTx_acts (b : Byte) : (s.emitTx b).acts = s.acts := rfl
@[simp] theorem State.emitTx_txTaken (b : Byte) : (s.emitTx b).txTaken = s.txTaken := rfl
@[simp] theorem State.emitTx_smpTaken (b : Byte) : (s.emitTx b).smpTaken = s.smpTaken := rfl

/-! ## `State.emitSmp` -/

@[simp] theorem State.emitSmp_cfg (e : SampleEvent) : (s.emitSmp e).cfg = s.cfg := rfl
@[simp] theorem State.emitSmp_sticky (e : SampleEvent) : (s.emitSmp e).sticky = s.sticky := rfl
@[simp] theorem State.emitSmp_lastErr (e : SampleEvent) : (s.emitSmp e).lastErr = s.lastErr := rfl
@[simp] theorem State.emitSmp_crcReg (e : SampleEvent) : (s.emitSmp e).crcReg = s.crcReg := rfl
@[simp] theorem State.emitSmp_encOpen (e : SampleEvent) : (s.emitSmp e).encOpen = s.encOpen := rfl
@[simp] theorem State.emitSmp_encRem (e : SampleEvent) : (s.emitSmp e).encRem = s.encRem := rfl
@[simp] theorem State.emitSmp_encCrc (e : SampleEvent) : (s.emitSmp e).encCrc = s.encCrc := rfl
@[simp] theorem State.emitSmp_sess (e : SampleEvent) : (s.emitSmp e).sess = s.sess := rfl
@[simp] theorem State.emitSmp_tx (e : SampleEvent) : (s.emitSmp e).tx = s.tx := rfl
@[simp] theorem State.emitSmp_smp (e : SampleEvent) : (s.emitSmp e).smp = s.smp ++ [e] := rfl
@[simp] theorem State.emitSmp_results (e : SampleEvent) : (s.emitSmp e).results = s.results := rfl
@[simp] theorem State.emitSmp_ops (e : SampleEvent) : (s.emitSmp e).ops = s.ops := rfl
@[simp] theorem State.emitSmp_acts (e : SampleEvent) : (s.emitSmp e).acts = s.acts := rfl
@[simp] theorem State.emitSmp_txTaken (e : SampleEvent) : (s.emitSmp e).txTaken = s.txTaken := rfl
@[simp] theorem State.emitSmp_smpTaken (e : SampleEvent) : (s.emitSmp e).smpTaken = s.smpTaken := rfl

/-! ## `State.noteError` -/

@[simp] theorem State.noteError_cfg (e : ErrCode) : (s.noteError e).cfg = s.cfg := rfl
@[simp] theorem State.noteError_sticky (e : ErrCode) : (s.noteError e).sticky = s.sticky ||| e.bit := rfl
@[simp] theorem State.noteError_lastErr (e : ErrCode) : (s.noteError e).lastErr = e.code := rfl
@[simp] theorem State.noteError_crcReg (e : ErrCode) : (s.noteError e).crcReg = s.crcReg := rfl
@[simp] theorem State.noteError_encOpen (e : ErrCode) : (s.noteError e).encOpen = s.encOpen := rfl
@[simp] theorem State.noteError_encRem (e : ErrCode) : (s.noteError e).encRem = s.encRem := rfl
@[simp] theorem State.noteError_encCrc (e : ErrCode) : (s.noteError e).encCrc = s.encCrc := rfl
@[simp] theorem State.noteError_sess (e : ErrCode) : (s.noteError e).sess = s.sess := rfl
@[simp] theorem State.noteError_tx (e : ErrCode) : (s.noteError e).tx = s.tx := rfl
@[simp] theorem State.noteError_smp (e : ErrCode) : (s.noteError e).smp = s.smp := rfl
@[simp] theorem State.noteError_results (e : ErrCode) : (s.noteError e).results = s.results := rfl
@[simp] theorem State.noteError_ops (e : ErrCode) : (s.noteError e).ops = s.ops := rfl
@[simp] theorem State.noteError_acts (e : ErrCode) : (s.noteError e).acts = s.acts := rfl
@[simp] theorem State.noteError_txTaken (e : ErrCode) : (s.noteError e).txTaken = s.txTaken := rfl
@[simp] theorem State.noteError_smpTaken (e : ErrCode) : (s.noteError e).smpTaken = s.smpTaken := rfl

/-! ## `State.raise` -/

@[simp] theorem State.raise_cfg (e : ErrCode) : (s.raise e).cfg = s.cfg := rfl
@[simp] theorem State.raise_sticky (e : ErrCode) : (s.raise e).sticky = s.sticky ||| e.bit := rfl
@[simp] theorem State.raise_lastErr (e : ErrCode) : (s.raise e).lastErr = e.code := rfl
@[simp] theorem State.raise_crcReg (e : ErrCode) : (s.raise e).crcReg = s.crcReg := rfl
@[simp] theorem State.raise_encOpen (e : ErrCode) : (s.raise e).encOpen = s.encOpen := rfl
@[simp] theorem State.raise_encRem (e : ErrCode) : (s.raise e).encRem = s.encRem := rfl
@[simp] theorem State.raise_encCrc (e : ErrCode) : (s.raise e).encCrc = s.encCrc := rfl
@[simp] theorem State.raise_sess (e : ErrCode) : (s.raise e).sess = s.sess := rfl
@[simp] theorem State.raise_tx (e : ErrCode) : (s.raise e).tx = s.tx := rfl
@[simp] theorem State.raise_smp (e : ErrCode) : (s.raise e).smp = s.smp := rfl
@[simp] theorem State.raise_results (e : ErrCode) : (s.raise e).results = s.results ++ [0] := rfl
@[simp] theorem State.raise_ops (e : ErrCode) : (s.raise e).ops = s.ops := rfl
@[simp] theorem State.raise_acts (e : ErrCode) : (s.raise e).acts = s.acts := rfl
@[simp] theorem State.raise_txTaken (e : ErrCode) : (s.raise e).txTaken = s.txTaken := rfl
@[simp] theorem State.raise_smpTaken (e : ErrCode) : (s.raise e).smpTaken = s.smpTaken := rfl

/-! ## `State.clearErrors` -/

@[simp] theorem State.clearErrors_cfg : (s.clearErrors).cfg = s.cfg := rfl
@[simp] theorem State.clearErrors_sticky : (s.clearErrors).sticky = 0 := rfl
@[simp] theorem State.clearErrors_lastErr : (s.clearErrors).lastErr = 0 := rfl
@[simp] theorem State.clearErrors_crcReg : (s.clearErrors).crcReg = s.crcReg := rfl
@[simp] theorem State.clearErrors_encOpen : (s.clearErrors).encOpen = s.encOpen := rfl
@[simp] theorem State.clearErrors_encRem : (s.clearErrors).encRem = s.encRem := rfl
@[simp] theorem State.clearErrors_encCrc : (s.clearErrors).encCrc = s.encCrc := rfl
@[simp] theorem State.clearErrors_sess : (s.clearErrors).sess = s.sess := rfl
@[simp] theorem State.clearErrors_tx : (s.clearErrors).tx = s.tx := rfl
@[simp] theorem State.clearErrors_smp : (s.clearErrors).smp = s.smp := rfl
@[simp] theorem State.clearErrors_results : (s.clearErrors).results = s.results := rfl
@[simp] theorem State.clearErrors_ops : (s.clearErrors).ops = s.ops := rfl
@[simp] theorem State.clearErrors_acts : (s.clearErrors).acts = s.acts := rfl
@[simp] theorem State.clearErrors_txTaken : (s.clearErrors).txTaken = s.txTaken := rfl
@[simp] theorem State.clearErrors_smpTaken : (s.clearErrors).smpTaken = s.smpTaken := rfl

/-! ## `State.setCrc` -/

@[simp] theorem State.setCrc_cfg (v : Byte) : (s.setCrc v).cfg = s.cfg := rfl
@[simp] theorem State.setCrc_sticky (v : Byte) : (s.setCrc v).sticky = s.sticky := rfl
@[simp] theorem State.setCrc_lastErr (v : Byte) : (s.setCrc v).lastErr = s.lastErr := rfl
@[simp] theorem State.setCrc_crcReg (v : Byte) : (s.setCrc v).crcReg = v := rfl
@[simp] theorem State.setCrc_encOpen (v : Byte) : (s.setCrc v).encOpen = s.encOpen := rfl
@[simp] theorem State.setCrc_encRem (v : Byte) : (s.setCrc v).encRem = s.encRem := rfl
@[simp] theorem State.setCrc_encCrc (v : Byte) : (s.setCrc v).encCrc = s.encCrc := rfl
@[simp] theorem State.setCrc_sess (v : Byte) : (s.setCrc v).sess = s.sess := rfl
@[simp] theorem State.setCrc_tx (v : Byte) : (s.setCrc v).tx = s.tx := rfl
@[simp] theorem State.setCrc_smp (v : Byte) : (s.setCrc v).smp = s.smp := rfl
@[simp] theorem State.setCrc_results (v : Byte) : (s.setCrc v).results = s.results := rfl
@[simp] theorem State.setCrc_ops (v : Byte) : (s.setCrc v).ops = s.ops := rfl
@[simp] theorem State.setCrc_acts (v : Byte) : (s.setCrc v).acts = s.acts := rfl
@[simp] theorem State.setCrc_txTaken (v : Byte) : (s.setCrc v).txTaken = s.txTaken := rfl
@[simp] theorem State.setCrc_smpTaken (v : Byte) : (s.setCrc v).smpTaken = s.smpTaken := rfl

/-! ## `State.setEnc` -/

@[simp] theorem State.setEnc_cfg (o : Bool) (r : BitVec 16) (c : Byte) : (s.setEnc o r c).cfg = s.cfg := rfl
@[simp] theorem State.setEnc_sticky (o : Bool) (r : BitVec 16) (c : Byte) : (s.setEnc o r c).sticky = s.sticky := rfl
@[simp] theorem State.setEnc_lastErr (o : Bool) (r : BitVec 16) (c : Byte) : (s.setEnc o r c).lastErr = s.lastErr := rfl
@[simp] theorem State.setEnc_crcReg (o : Bool) (r : BitVec 16) (c : Byte) : (s.setEnc o r c).crcReg = s.crcReg := rfl
@[simp] theorem State.setEnc_encOpen (o : Bool) (r : BitVec 16) (c : Byte) : (s.setEnc o r c).encOpen = o := rfl
@[simp] theorem State.setEnc_encRem (o : Bool) (r : BitVec 16) (c : Byte) : (s.setEnc o r c).encRem = r := rfl
@[simp] theorem State.setEnc_encCrc (o : Bool) (r : BitVec 16) (c : Byte) : (s.setEnc o r c).encCrc = c := rfl
@[simp] theorem State.setEnc_sess (o : Bool) (r : BitVec 16) (c : Byte) : (s.setEnc o r c).sess = s.sess := rfl
@[simp] theorem State.setEnc_tx (o : Bool) (r : BitVec 16) (c : Byte) : (s.setEnc o r c).tx = s.tx := rfl
@[simp] theorem State.setEnc_smp (o : Bool) (r : BitVec 16) (c : Byte) : (s.setEnc o r c).smp = s.smp := rfl
@[simp] theorem State.setEnc_results (o : Bool) (r : BitVec 16) (c : Byte) : (s.setEnc o r c).results = s.results := rfl
@[simp] theorem State.setEnc_ops (o : Bool) (r : BitVec 16) (c : Byte) : (s.setEnc o r c).ops = s.ops := rfl
@[simp] theorem State.setEnc_acts (o : Bool) (r : BitVec 16) (c : Byte) : (s.setEnc o r c).acts = s.acts := rfl
@[simp] theorem State.setEnc_txTaken (o : Bool) (r : BitVec 16) (c : Byte) : (s.setEnc o r c).txTaken = s.txTaken := rfl
@[simp] theorem State.setEnc_smpTaken (o : Bool) (r : BitVec 16) (c : Byte) : (s.setEnc o r c).smpTaken = s.smpTaken := rfl

/-! ## `State.emitHeader` -/

@[simp] theorem State.emitHeader_cfg (l : BitVec 16) : (s.emitHeader l).cfg = s.cfg := rfl
@[simp] theorem State.emitHeader_sticky (l : BitVec 16) : (s.emitHeader l).sticky = s.sticky := rfl
@[simp] theorem State.emitHeader_lastErr (l : BitVec 16) : (s.emitHeader l).lastErr = s.lastErr := rfl
@[simp] theorem State.emitHeader_crcReg (l : BitVec 16) : (s.emitHeader l).crcReg = s.crcReg := rfl
@[simp] theorem State.emitHeader_encOpen (l : BitVec 16) : (s.emitHeader l).encOpen = s.encOpen := rfl
@[simp] theorem State.emitHeader_encRem (l : BitVec 16) : (s.emitHeader l).encRem = s.encRem := rfl
@[simp] theorem State.emitHeader_encCrc (l : BitVec 16) : (s.emitHeader l).encCrc = s.encCrc := rfl
@[simp] theorem State.emitHeader_sess (l : BitVec 16) : (s.emitHeader l).sess = s.sess := rfl
@[simp] theorem State.emitHeader_tx (l : BitVec 16) : (s.emitHeader l).tx = s.tx ++ [HDR] ++ [l.extractLsb' 8 8] ++ [l.extractLsb' 0 8] := rfl
@[simp] theorem State.emitHeader_smp (l : BitVec 16) : (s.emitHeader l).smp = s.smp := rfl
@[simp] theorem State.emitHeader_results (l : BitVec 16) : (s.emitHeader l).results = s.results := rfl
@[simp] theorem State.emitHeader_ops (l : BitVec 16) : (s.emitHeader l).ops = s.ops := rfl
@[simp] theorem State.emitHeader_acts (l : BitVec 16) : (s.emitHeader l).acts = s.acts := rfl
@[simp] theorem State.emitHeader_txTaken (l : BitVec 16) : (s.emitHeader l).txTaken = s.txTaken := rfl
@[simp] theorem State.emitHeader_smpTaken (l : BitVec 16) : (s.emitHeader l).smpTaken = s.smpTaken := rfl

/-! ## `State.setCtx` -/

@[simp] theorem State.setCtx_cfg (ch : Byte) (c : Session) : (s.setCtx ch c).cfg = s.cfg := rfl
@[simp] theorem State.setCtx_sticky (ch : Byte) (c : Session) : (s.setCtx ch c).sticky = s.sticky := rfl
@[simp] theorem State.setCtx_lastErr (ch : Byte) (c : Session) : (s.setCtx ch c).lastErr = s.lastErr := rfl
@[simp] theorem State.setCtx_crcReg (ch : Byte) (c : Session) : (s.setCtx ch c).crcReg = s.crcReg := rfl
@[simp] theorem State.setCtx_encOpen (ch : Byte) (c : Session) : (s.setCtx ch c).encOpen = s.encOpen := rfl
@[simp] theorem State.setCtx_encRem (ch : Byte) (c : Session) : (s.setCtx ch c).encRem = s.encRem := rfl
@[simp] theorem State.setCtx_encCrc (ch : Byte) (c : Session) : (s.setCtx ch c).encCrc = s.encCrc := rfl
@[simp] theorem State.setCtx_sess (ch : Byte) (c : Session) : (s.setCtx ch c).sess = s.sess.set ch.toNat c := rfl
@[simp] theorem State.setCtx_tx (ch : Byte) (c : Session) : (s.setCtx ch c).tx = s.tx := rfl
@[simp] theorem State.setCtx_smp (ch : Byte) (c : Session) : (s.setCtx ch c).smp = s.smp := rfl
@[simp] theorem State.setCtx_results (ch : Byte) (c : Session) : (s.setCtx ch c).results = s.results := rfl
@[simp] theorem State.setCtx_ops (ch : Byte) (c : Session) : (s.setCtx ch c).ops = s.ops := rfl
@[simp] theorem State.setCtx_acts (ch : Byte) (c : Session) : (s.setCtx ch c).acts = s.acts := rfl
@[simp] theorem State.setCtx_txTaken (ch : Byte) (c : Session) : (s.setCtx ch c).txTaken = s.txTaken := rfl
@[simp] theorem State.setCtx_smpTaken (ch : Byte) (c : Session) : (s.setCtx ch c).smpTaken = s.smpTaken := rfl

/-! ## `State.popOp` -/

@[simp] theorem State.popOp_cfg : (s.popOp).cfg = s.cfg := rfl
@[simp] theorem State.popOp_sticky : (s.popOp).sticky = s.sticky := rfl
@[simp] theorem State.popOp_lastErr : (s.popOp).lastErr = s.lastErr := rfl
@[simp] theorem State.popOp_crcReg : (s.popOp).crcReg = s.crcReg := rfl
@[simp] theorem State.popOp_encOpen : (s.popOp).encOpen = s.encOpen := rfl
@[simp] theorem State.popOp_encRem : (s.popOp).encRem = s.encRem := rfl
@[simp] theorem State.popOp_encCrc : (s.popOp).encCrc = s.encCrc := rfl
@[simp] theorem State.popOp_sess : (s.popOp).sess = s.sess := rfl
@[simp] theorem State.popOp_tx : (s.popOp).tx = s.tx := rfl
@[simp] theorem State.popOp_smp : (s.popOp).smp = s.smp := rfl
@[simp] theorem State.popOp_results : (s.popOp).results = s.results := rfl
@[simp] theorem State.popOp_ops : (s.popOp).ops = s.ops.drop 1 := rfl
@[simp] theorem State.popOp_acts : (s.popOp).acts = s.acts := rfl
@[simp] theorem State.popOp_txTaken : (s.popOp).txTaken = s.txTaken := rfl
@[simp] theorem State.popOp_smpTaken : (s.popOp).smpTaken = s.smpTaken := rfl

/-! ## `State.popAct` -/

@[simp] theorem State.popAct_cfg : (s.popAct).cfg = s.cfg := rfl
@[simp] theorem State.popAct_sticky : (s.popAct).sticky = s.sticky := rfl
@[simp] theorem State.popAct_lastErr : (s.popAct).lastErr = s.lastErr := rfl
@[simp] theorem State.popAct_crcReg : (s.popAct).crcReg = s.crcReg := rfl
@[simp] theorem State.popAct_encOpen : (s.popAct).encOpen = s.encOpen := rfl
@[simp] theorem State.popAct_encRem : (s.popAct).encRem = s.encRem := rfl
@[simp] theorem State.popAct_encCrc : (s.popAct).encCrc = s.encCrc := rfl
@[simp] theorem State.popAct_sess : (s.popAct).sess = s.sess := rfl
@[simp] theorem State.popAct_tx : (s.popAct).tx = s.tx := rfl
@[simp] theorem State.popAct_smp : (s.popAct).smp = s.smp := rfl
@[simp] theorem State.popAct_results : (s.popAct).results = s.results := rfl
@[simp] theorem State.popAct_ops : (s.popAct).ops = s.ops := rfl
@[simp] theorem State.popAct_acts : (s.popAct).acts = s.acts.drop 1 := rfl
@[simp] theorem State.popAct_txTaken : (s.popAct).txTaken = s.txTaken := rfl
@[simp] theorem State.popAct_smpTaken : (s.popAct).smpTaken = s.smpTaken := rfl

/-! ## `State.takeTx` -/

@[simp] theorem State.takeTx_cfg : (s.takeTx).cfg = s.cfg := rfl
@[simp] theorem State.takeTx_sticky : (s.takeTx).sticky = s.sticky := rfl
@[simp] theorem State.takeTx_lastErr : (s.takeTx).lastErr = s.lastErr := rfl
@[simp] theorem State.takeTx_crcReg : (s.takeTx).crcReg = s.crcReg := rfl
@[simp] theorem State.takeTx_encOpen : (s.takeTx).encOpen = s.encOpen := rfl
@[simp] theorem State.takeTx_encRem : (s.takeTx).encRem = s.encRem := rfl
@[simp] theorem State.takeTx_encCrc : (s.takeTx).encCrc = s.encCrc := rfl
@[simp] theorem State.takeTx_sess : (s.takeTx).sess = s.sess := rfl
@[simp] theorem State.takeTx_tx : (s.takeTx).tx = s.tx.drop 1 := rfl
@[simp] theorem State.takeTx_smp : (s.takeTx).smp = s.smp := rfl
@[simp] theorem State.takeTx_results : (s.takeTx).results = s.results := rfl
@[simp] theorem State.takeTx_ops : (s.takeTx).ops = s.ops := rfl
@[simp] theorem State.takeTx_acts : (s.takeTx).acts = s.acts := rfl
@[simp] theorem State.takeTx_txTaken : (s.takeTx).txTaken = s.txTaken ++ s.tx.take 1 := rfl
@[simp] theorem State.takeTx_smpTaken : (s.takeTx).smpTaken = s.smpTaken := rfl

/-! ## `State.takeSmp` -/

@[simp] theorem State.takeSmp_cfg : (s.takeSmp).cfg = s.cfg := rfl
@[simp] theorem State.takeSmp_sticky : (s.takeSmp).sticky = s.sticky := rfl
@[simp] theorem State.takeSmp_lastErr : (s.takeSmp).lastErr = s.lastErr := rfl
@[simp] theorem State.takeSmp_crcReg : (s.takeSmp).crcReg = s.crcReg := rfl
@[simp] theorem State.takeSmp_encOpen : (s.takeSmp).encOpen = s.encOpen := rfl
@[simp] theorem State.takeSmp_encRem : (s.takeSmp).encRem = s.encRem := rfl
@[simp] theorem State.takeSmp_encCrc : (s.takeSmp).encCrc = s.encCrc := rfl
@[simp] theorem State.takeSmp_sess : (s.takeSmp).sess = s.sess := rfl
@[simp] theorem State.takeSmp_tx : (s.takeSmp).tx = s.tx := rfl
@[simp] theorem State.takeSmp_smp : (s.takeSmp).smp = s.smp.drop 1 := rfl
@[simp] theorem State.takeSmp_results : (s.takeSmp).results = s.results := rfl
@[simp] theorem State.takeSmp_ops : (s.takeSmp).ops = s.ops := rfl
@[simp] theorem State.takeSmp_acts : (s.takeSmp).acts = s.acts := rfl
@[simp] theorem State.takeSmp_txTaken : (s.takeSmp).txTaken = s.txTaken := rfl
@[simp] theorem State.takeSmp_smpTaken : (s.takeSmp).smpTaken = s.smpTaken ++ s.smp.take 1 := rfl

/-! ## `State.resetBlock` -/

@[simp] theorem State.resetBlock_cfg : (s.resetBlock).cfg = s.cfg := rfl
@[simp] theorem State.resetBlock_sticky : (s.resetBlock).sticky = 0 := rfl
@[simp] theorem State.resetBlock_lastErr : (s.resetBlock).lastErr = 0 := rfl
@[simp] theorem State.resetBlock_crcReg : (s.resetBlock).crcReg = 0 := rfl
@[simp] theorem State.resetBlock_encOpen : (s.resetBlock).encOpen = false := rfl
@[simp] theorem State.resetBlock_encRem : (s.resetBlock).encRem = 0 := rfl
@[simp] theorem State.resetBlock_encCrc : (s.resetBlock).encCrc = 0 := rfl
@[simp] theorem State.resetBlock_sess : (s.resetBlock).sess = s.sess.map (fun _ => Session.reset) := rfl
@[simp] theorem State.resetBlock_tx : (s.resetBlock).tx = [] := rfl
@[simp] theorem State.resetBlock_smp : (s.resetBlock).smp = [] := rfl
@[simp] theorem State.resetBlock_results : (s.resetBlock).results = s.results := rfl
@[simp] theorem State.resetBlock_ops : (s.resetBlock).ops = s.ops := rfl
@[simp] theorem State.resetBlock_acts : (s.resetBlock).acts = s.acts := rfl
@[simp] theorem State.resetBlock_txTaken : (s.resetBlock).txTaken = s.txTaken := rfl
@[simp] theorem State.resetBlock_smpTaken : (s.resetBlock).smpTaken = s.smpTaken := rfl

end

end Sys2Proof.Machine
end

