-- ==== Sys2Proof/Laws/Ops.lean ====
section
/-! SUPPORT. What the shared operations can do, said once: the session contexts under the updates, the session operand,
the push of a byte, and, for every operation and every step, the list of effects it can have. -/

namespace Sys2Proof.Machine

/-! ## Contexts -/

@[simp] theorem State.nSess_setCtx (s : State) (ch : Byte) (c : Session) : (s.setCtx ch c).nSess = s.nSess := by
  simp [State.nSess]

@[simp] theorem State.nSess_ret (s : State) (v : Res) : (s.ret v).nSess = s.nSess := rfl

@[simp] theorem State.nSess_raise (s : State) (e : ErrCode) : (s.raise e).nSess = s.nSess := rfl

@[simp] theorem State.nSess_emitSmp (s : State) (e : SampleEvent) : (s.emitSmp e).nSess = s.nSess := rfl

@[simp] theorem State.nSess_resetBlock (s : State) : s.resetBlock.nSess = s.nSess := by
  simp [State.nSess]

@[simp] theorem State.ctx_ret (s : State) (v : Res) (k : Byte) : (s.ret v).ctx k = s.ctx k := rfl

@[simp] theorem State.ctx_raise (s : State) (e : ErrCode) (k : Byte) : (s.raise e).ctx k = s.ctx k := rfl

@[simp] theorem State.ctx_emitSmp (s : State) (e : SampleEvent) (k : Byte) : (s.emitSmp e).ctx k = s.ctx k := rfl

/-- A context written is read back. -/
@[simp] theorem State.ctx_setCtx_self (s : State) (ch : Byte) (c : Session) (h : ch.toNat < s.nSess) :
    (s.setCtx ch c).ctx ch = c := by
  have h' : ch.toNat < s.sess.length := h
  simp [State.ctx, List.getD_eq_getElem?_getD, h']

/-- Writing a context leaves every other one alone (10_state.md R30). -/
theorem State.ctx_setCtx_ne (s : State) {ch k : Byte} (c : Session) (h : k ≠ ch) :
    (s.setCtx ch c).ctx k = s.ctx k := by
  have h' : ch.toNat ≠ k.toNat := fun e => h (BitVec.eq_of_toNat_eq e.symm)
  simp [State.ctx, List.getD_eq_getElem?_getD, List.getElem?_set_ne h']

/-- A context of an index in range is one of the contexts. -/
theorem State.ctx_mem (s : State) {ch : Byte} (h : ch.toNat < s.nSess) : s.ctx ch ∈ s.sess := by
  have h' : ch.toNat < s.sess.length := h
  simp [State.ctx, List.getD_eq_getElem?_getD, h']

/-! ## The session operand -/

theorem withSession_of_lt {ch : Byte} {s : State} (k : Session → State) (h : ch.toNat < s.nSess) :
    withSession ch s k = .next (k (s.ctx ch)) := if_pos h

theorem withSession_of_ge {ch : Byte} {s : State} (k : Session → State) (h : s.nSess ≤ ch.toNat) :
    withSession ch s k = .next (s.raise .badCh) := if_neg (Nat.not_lt.mpr h)

/-! ## The push of a byte (42_reassembler.md R133) -/

theorem rsmPush_completes (ch : Byte) (c : Session) (b : Byte) (s : State) (h : c.buf.length = 22) :
    rsmPush ch c b s =
      (s.setCtx ch (c.complete (c.buf ++ [b]))).emitSmp (sampleEvent ch (c.buf ++ [b])) := by
  simp [rsmPush, h]

theorem rsmPush_appends (ch : Byte) (c : Session) (b : Byte) (s : State) (h : c.buf.length ≠ 22) :
    rsmPush ch c b s = s.setCtx ch { c with buf := c.buf ++ [b] } := by
  have h' : (c.buf ++ [b]).length ≠ FRAME_LEN := by simpa [FRAME_LEN] using h
  simp only [rsmPush, if_neg h']

/-! ## What an operation can do -/

/-- The effects an operation can have on the state it is executed in. -/
inductive Effect (s : State) : State → Prop where
  /-- only a result: reads, `SYS.NOP`, a dropped byte -/
  | result (v : Res) : Effect s (s.ret v)
  /-- an error (60_exceptions.md R192) -/
  | error (e : ErrCode) : Effect s (s.raise e)
  /-- `SYS.CLRSTAT` -/
  | clear : Effect s (s.clearErrors.ret 0)
  /-- `CRC.CLR`, `CRC.BYTE` -/
  | crc (v : Byte) : Effect s ((s.setCrc v).ret 0)
  /-- `ENC.HDR`, `ENC.BYTE`, `ENC.ABORT`: bytes emitted, the encoder in a legal state -/
  | encoder (o : Bool) (r : BitVec 16) (c : Byte) (bytes : List Byte) (closed : o = false → r = 0)
      (opened : o = true → 1 ≤ r.toNat) :
      Effect s { s with encOpen := o, encRem := r, encCrc := c, tx := s.tx ++ bytes, results := s.results ++ [0] }
  /-- `RSM.FIRST`, `RSM.NEXT`, `RSM.CLR` without a completion: only the buffer and the drop bit of one context -/
  | buffer (ch : Byte) (buf : List Byte) (inRange : ch.toNat < s.nSess) (short : buf.length ≠ 23)
      (grows : buf.length ≤ (s.ctx ch).buf.length + 1) :
      Effect s ((s.setCtx ch { s.ctx ch with buf := buf, drop := false }).ret 0)
  /-- `RSM.FIRST`, `RSM.NEXT` that complete a frame -/
  | frame (ch : Byte) (f : List Byte) (inRange : ch.toNat < s.nSess) (whole : f.length = 23) :
      Effect s (((s.setCtx ch ((s.ctx ch).complete f)).emitSmp (sampleEvent ch f)).ret 0)

/-- A read on a session has only a result, or is `E_BADCH`. -/
theorem effect_of_read (ch : Byte) (s : State) (v : Session → Res) :
    ∃ t, withSession ch s (fun c => s.ret (v c)) = .next t ∧ Effect s t := by
  by_cases h : ch.toNat < s.nSess
  · exact ⟨_, withSession_of_lt _ h, .result _⟩
  · exact ⟨_, withSession_of_ge _ (Nat.le_of_not_lt h), .error _⟩

theorem effect_of_encHdr (len : BitVec 16) (s : State) : ∃ t, execEncHdr len s = .next t ∧ Effect s t := by
  unfold execEncHdr
  split
  · exact ⟨_, rfl, .error _⟩
  · simp only
    split
    · rename_i hl
      refine ⟨_, rfl, ?_⟩
      simpa [State.emitHeader, State.emitTx, State.setEnc, State.ret] using
        Effect.encoder (s := s) false len INIT
          ([HDR, len.extractLsb' 8 8, len.extractLsb' 0 8] ++ [INIT]) (fun _ => hl) (by simp)
    · rename_i hl
      refine ⟨_, rfl, ?_⟩
      have hpos : 1 ≤ len.toNat := by
        have h0 : len.toNat ≠ 0 := fun h => hl (BitVec.eq_of_toNat_eq (by simpa using h))
        omega
      simpa [State.emitHeader, State.emitTx, State.setEnc, State.ret] using
        Effect.encoder (s := s) true len INIT
          [HDR, len.extractLsb' 8 8, len.extractLsb' 0 8] (by simp) (fun _ => hpos)

theorem effect_of_encByte (b : Byte) (s : State) : ∃ t, execEncByte b s = .next t ∧ Effect s t := by
  unfold execEncByte
  split
  · simp only
    split
    · rename_i hr
      refine ⟨_, rfl, ?_⟩
      simpa [State.emitTx, State.setEnc, State.ret] using
        Effect.encoder (s := s) false (s.encRem - 1) (crc8Byte s.encCrc b) [b, crc8Byte s.encCrc b]
          (fun _ => hr) (by simp)
    · rename_i hr
      refine ⟨_, rfl, ?_⟩
      have hpos : 1 ≤ (s.encRem - 1).toNat := by
        have h0 : (s.encRem - 1).toNat ≠ 0 := fun h => hr (BitVec.eq_of_toNat_eq (by simpa using h))
        omega
      simpa [State.emitTx, State.setEnc, State.ret] using
        Effect.encoder (s := s) true (s.encRem - 1) (crc8Byte s.encCrc b) [b] (by simp) (fun _ => hpos)
  · exact ⟨_, rfl, .error _⟩

/-- The push of a byte into context `c`, a context of session `ch` with the session's own decoder registers. -/
theorem effect_of_push (ch b : Byte) (s : State) (buf : List Byte) (h : ch.toNat < s.nSess)
    (hb : buf.length ≤ (s.ctx ch).buf.length) :
    Effect s ((rsmPush ch { s.ctx ch with buf := buf, drop := false } b s).ret 0) := by
  by_cases hl : buf.length = 22
  · rw [rsmPush_completes _ _ _ _ hl]
    exact Effect.frame ch (buf ++ [b]) h (by simp [hl])
  · rw [rsmPush_appends _ _ _ _ hl]
    exact Effect.buffer ch (buf ++ [b]) h (by simpa using hl) (by simpa using hb)

theorem effect_of_rsmFirst (ch b : Byte) (s : State) : ∃ t, execRsmFirst ch b s = .next t ∧ Effect s t := by
  by_cases h : ch.toNat < s.nSess
  · refine ⟨_, withSession_of_lt _ h, ?_⟩
    refine effect_of_push ch b s (if b = MARKER then [] else (s.ctx ch).buf) h ?_
    split <;> simp
  · exact ⟨_, withSession_of_ge _ (Nat.le_of_not_lt h), .error _⟩

theorem effect_of_rsmNext (ch b : Byte) (s : State) : ∃ t, execRsmNext ch b s = .next t ∧ Effect s t := by
  by_cases h : ch.toNat < s.nSess
  · refine ⟨_, withSession_of_lt _ h, ?_⟩
    cases hd : (s.ctx ch).drop
    · have hc : { s.ctx ch with buf := (s.ctx ch).buf, drop := false } = s.ctx ch := by rw [← hd]
      have := effect_of_push ch b s (s.ctx ch).buf h (Nat.le_refl _)
      rw [hc] at this
      simpa using this
    · simpa using Effect.result (s := s) 0
  · exact ⟨_, withSession_of_ge _ (Nat.le_of_not_lt h), .error _⟩

theorem effect_of_rsmClr (ch : Byte) (s : State) : ∃ t, execRsmClr ch s = .next t ∧ Effect s t := by
  by_cases h : ch.toNat < s.nSess
  · exact ⟨_, withSession_of_lt _ h, Effect.buffer ch [] h (by simp) (by simp)⟩
  · exact ⟨_, withSession_of_ge _ (Nat.le_of_not_lt h), .error _⟩

/-- Every operation answers a next state, by one of the effects above. -/
theorem exec_effect (i : Instr) (s : State) : ∃ t, exec i s = .next t ∧ Effect s t := by
  cases i with
  | sysNop => exact ⟨_, rfl, .result _⟩
  | sysRdstat => exact ⟨_, rfl, .result _⟩
  | sysClrstat => exact ⟨_, rfl, .clear⟩
  | crcClr => exact ⟨_, rfl, .crc _⟩
  | crcByte b => exact ⟨_, rfl, .crc _⟩
  | crcRd => exact ⟨_, rfl, .result _⟩
  | encHdr len => exact effect_of_encHdr len s
  | encByte b => exact effect_of_encByte b s
  | encAbort =>
    refine ⟨_, rfl, ?_⟩
    simpa [State.setEnc, State.ret] using Effect.encoder (s := s) false 0 0 [] (fun _ => rfl) (by simp)
  | encRd => exact ⟨_, rfl, .result _⟩
  | rsmFirst ch b => exact effect_of_rsmFirst ch b s
  | rsmNext ch b => exact effect_of_rsmNext ch b s
  | rsmClr ch => exact effect_of_rsmClr ch s
  | rsmRd ch => exact effect_of_read ch s (fun c => BitVec.ofNat 64 ((c.drop.toNat <<< 8) ||| c.buf.length))
  | rsmRdbuf ch k => exact effect_of_read ch s (fun c => (c.buf.getD k.toNat 0).setWidth 64)
  | decRdvc ch => exact effect_of_read ch s (fun c => c.vc)
  | decRdic ch => exact effect_of_read ch s (fun c => c.ic)
  | decRdwc ch => exact effect_of_read ch s (fun c => c.wc)
  | decRdvf ch => exact effect_of_read ch s (fun c => bits64 c.vc LOG_SCALE_VW)
  | decRdif ch => exact effect_of_read ch s (fun c => bits64 c.ic LOG_SCALE_I)
  | decRdwf ch => exact effect_of_read ch s (fun c => bits64 c.wc LOG_SCALE_VW)
  | decRdcnt ch => exact effect_of_read ch s (fun c => c.cnt.setWidth 64)

/-- The inversion of `exec_effect`. -/
theorem effect_of_exec {i : Instr} {s t : State} (h : exec i s = .next t) : Effect s t := by
  obtain ⟨u, hu, he⟩ := exec_effect i s
  rw [hu] at h
  cases h
  exact he

/-- `E_BADCH` for every operation that names a session the block does not have (60_exceptions.md R191). -/
theorem exec_badCh {i : Instr} {ch : Byte} {s : State} (h : i.session? = some ch) (hc : s.nSess ≤ ch.toNat) :
    exec i s = .next (s.raise .badCh) := by
  have hn : ¬ ch.toNat < s.nSess := Nat.not_lt.mpr hc
  cases i <;> simp only [Instr.session?, Option.some.injEq, reduceCtorEq] at h <;> subst h <;>
    simp only [exec, execRsmFirst, execRsmNext, execRsmClr, execRsmRd, execRsmRdbuf, execDecRdvc, execDecRdic,
      execDecRdwc, execDecRdvf, execDecRdif, execDecRdwf, execDecRdcnt, withSession, if_neg hn]

theorem accept_of_ok {w : Word} {i : Instr} (s : State) (h : decode w = .ok i) : accept w s = exec i s := by
  simp only [accept, h]

theorem accept_of_illegal {w : Word} {why : Illegal} (s : State) (h : decode w = .illegal why) :
    accept w s = .next (s.raise .illegal) := by
  simp only [accept, h]

/-- Accepting a word answers a next state, by one of the effects above. -/
theorem accept_effect (w : Word) (s : State) : ∃ t, accept w s = .next t ∧ Effect s t := by
  unfold accept
  split
  · exact exec_effect _ s
  · exact ⟨_, rfl, .error _⟩

/-! ## What a step can do -/

/-- The effects a step can have; `acts'` stands for the host's actions after it. -/
inductive StepEffect (s : State) : State → Prop where
  /-- no word is offered, or the word is held: only the host's action is used up -/
  | waits (acts : List HostAct) : StepEffect s { s with acts := acts }
  /-- the word at the head of the port is accepted, in the state without it -/
  | accepts (w : Word) (rest : List Word) (acts : List HostAct) (t : State) (offered : s.ops = w :: rest)
      (free : held w s = false) (takes : accept w { s with ops := rest, acts := acts } = .next t)
      (effect : Effect { s with ops := rest, acts := acts } t) : StepEffect s t
  | takesTx (more : List HostAct) (act : s.acts = .takeTx :: more) : StepEffect s s.popAct.takeTx
  | takesSmp (more : List HostAct) (act : s.acts = .takeSmp :: more) : StepEffect s s.popAct.takeSmp
  | resets (again : Bool) (more : List HostAct) (act : s.acts = .reset again :: more) :
      StepEffect s (assertReset again s.popAct)

/-- A hold does not depend on what the host does or offers. -/
theorem held_of_host (w : Word) (s : State) (ops : List Word) (acts : List HostAct) :
    held w { s with ops := ops, acts := acts } = held w s := by
  unfold held heldInstr
  split
  · rename_i i _
    cases i <;> rfl
  · rfl

theorem operate_idle {s : State} (h : s.ops = []) : operate s = .next s := by
  unfold operate
  rw [h]

theorem operate_offered {s : State} {w : Word} {rest : List Word} (h : s.ops = w :: rest) :
    operate s = if held w s then .next s else accept w { s with ops := rest } := by
  unfold operate
  rw [h]
  simp only [State.popOp, h, List.drop_succ_cons, List.drop_zero]

theorem operate_effect (s : State) (acts : List HostAct) :
    ∃ t, operate { s with acts := acts } = .next t ∧ StepEffect s t := by
  have hc : s.ops = [] ∨ ∃ w rest, s.ops = w :: rest := by cases s.ops <;> simp
  rcases hc with ho | ⟨w, rest, ho⟩
  · exact ⟨_, operate_idle (s := { s with acts := acts }) ho, .waits acts⟩
  · rw [operate_offered (s := { s with acts := acts }) ho, held_of_host w s s.ops acts]
    cases hh : held w s with
    | true => exact ⟨_, rfl, .waits acts⟩
    | false =>
      obtain ⟨t, ht, he⟩ := accept_effect w { s with ops := rest, acts := acts }
      exact ⟨t, ht, .accepts w rest acts t ho hh ht he⟩

/-- Every step answers a next state, by one of the effects above. -/
theorem step_effect (s : State) : ∃ t, step s = .next t ∧ StepEffect s t := by
  unfold step portStep
  split
  · exact operate_effect s s.acts
  · exact operate_effect s (s.acts.drop 1)
  · rename_i more h
    exact ⟨_, rfl, .takesTx more h⟩
  · rename_i more h
    exact ⟨_, rfl, .takesSmp more h⟩
  · rename_i again more h
    exact ⟨_, rfl, .resets again more h⟩

/-- The inversion of `step_effect`. -/
theorem effect_of_step {s t : State} (h : step s = .next t) : StepEffect s t := by
  obtain ⟨u, hu, he⟩ := step_effect s
  rw [hu] at h
  cases h
  exact he

end Sys2Proof.Machine
end

