-- ==== Sys2Proof/Laws/Frames.lean ====
section
/-! SUPPORT. What operations neither read nor write, and how much they emit. -/

namespace Sys2Proof.Machine

/-- The state with the parameters and the host's side replaced. -/
def State.outside (cfg : Config) (ops : List Word) (acts : List HostAct) (txTaken : List Byte)
    (smpTaken : List SampleEvent) (s : State) : State :=
  { s with cfg := cfg, ops := ops, acts := acts, txTaken := txTaken, smpTaken := smpTaken }

theorem withSession_outside (ch : Byte) (s : State) (k k' : Session → State) (cfg : Config) (ops : List Word)
    (acts : List HostAct) (tt : List Byte) (st : List SampleEvent)
    (h : ∀ c, k' c = (k c).outside cfg ops acts tt st) :
    withSession ch (s.outside cfg ops acts tt st) k' =
      mapNext (State.outside cfg ops acts tt st) (withSession ch s k) := by
  by_cases hs : ch.toNat < s.nSess
  · rw [withSession_of_lt k hs, withSession_of_lt (s := s.outside cfg ops acts tt st) k' hs, h]; rfl
  · have hg := Nat.le_of_not_lt hs
    rw [withSession_of_ge k hg, withSession_of_ge (s := s.outside cfg ops acts tt st) k' hg]; rfl

theorem rsmPush_outside (ch : Byte) (c : Session) (b : Byte) (s : State) (cfg : Config) (ops : List Word)
    (acts : List HostAct) (tt : List Byte) (st : List SampleEvent) :
    rsmPush ch c b (s.outside cfg ops acts tt st) = (rsmPush ch c b s).outside cfg ops acts tt st := by
  by_cases h : c.buf.length = 22
  · rw [rsmPush_completes _ _ _ _ h, rsmPush_completes _ _ _ _ h]; rfl
  · rw [rsmPush_appends _ _ _ _ h, rsmPush_appends _ _ _ _ h]; rfl

/-- No operation reads or writes the parameters or the host's side. -/
theorem exec_outside (i : Instr) (s : State) (cfg : Config) (ops : List Word) (acts : List HostAct)
    (tt : List Byte) (st : List SampleEvent) :
    exec i (s.outside cfg ops acts tt st) = mapNext (State.outside cfg ops acts tt st) (exec i s) := by
  cases i with
  | sysNop | sysRdstat | sysClrstat | crcClr | crcByte | crcRd | encAbort | encRd => rfl
  | encHdr len =>
    show execEncHdr len _ = mapNext _ (execEncHdr len s)
    unfold execEncHdr
    have e : (s.outside cfg ops acts tt st).encOpen = s.encOpen := rfl
    rw [e]
    by_cases h : s.encOpen = true
    · rw [if_pos h, if_pos h]; rfl
    · rw [if_neg h, if_neg h]
      by_cases hl : len = 0
      · simp only [if_pos hl]; rfl
      · simp only [if_neg hl]; rfl
  | encByte b =>
    show execEncByte b _ = mapNext _ (execEncByte b s)
    unfold execEncByte
    have e : (s.outside cfg ops acts tt st).encOpen = s.encOpen := rfl
    have er : (s.outside cfg ops acts tt st).encRem = s.encRem := rfl
    rw [e, er]
    by_cases h : s.encOpen = true
    · rw [if_pos h, if_pos h]
      by_cases hl : s.encRem - 1 = 0
      · simp only [if_pos hl]; rfl
      · simp only [if_neg hl]; rfl
    · rw [if_neg h, if_neg h]; rfl
  | rsmFirst ch b =>
    simp only [exec, execRsmFirst]
    refine withSession_outside ch s _ _ cfg ops acts tt st fun c => ?_
    rw [rsmPush_outside]; rfl
  | rsmNext ch b =>
    simp only [exec, execRsmNext]
    refine withSession_outside ch s _ _ cfg ops acts tt st fun c => ?_
    cases c.drop
    · simp only [Bool.false_eq_true, if_false]; rw [rsmPush_outside]; rfl
    · rfl
  | rsmClr ch | rsmRd ch | rsmRdbuf ch | decRdvc ch | decRdic ch | decRdwc ch | decRdvf ch | decRdif ch | decRdwf ch
  | decRdcnt ch =>
    simp only [exec, execRsmClr, execRsmRd, execRsmRdbuf, execDecRdvc, execDecRdic, execDecRdwc, execDecRdvf,
      execDecRdif, execDecRdwf, execDecRdcnt]
    exact withSession_outside ch s _ _ cfg ops acts tt st fun c => rfl

/-- A stream with room for `need` entries more stays within its capacity. -/
theorem WithinDepth.add {dep : Option Nat} {used need : Nat} (h : roomFor dep used need = true) (hw : WithinDepth dep used) : WithinDepth dep (used + need) := by
  intro d hd
  subst hd
  have := hw d rfl
  simp [roomFor] at h
  omega

/-- An operation emits at most the room the port waits for, with either rule of 20_memory.md R46. -/
theorem exec_emits_le (i : Instr) (s t : State) (he : exec i s = .next t) :
    t.tx.length ≤ s.tx.length + txNeed i s ∧ t.smp.length ≤ s.smp.length + smpNeed i s := by
  by_cases hs : ∃ ch, i.session? = some ch ∧ s.nSess ≤ ch.toNat
  · obtain ⟨ch, h1, h2⟩ := hs
    rw [exec_badCh h1 h2] at he; cases he
    simp
  · cases i
    case encHdr len =>
      simp only [exec, execEncHdr] at he; split at he
      · cases he; simp
      · have : s.encOpen = false := by simp_all
        split at he <;> cases he <;> simp [txNeed, encHdrNeed, this] <;> split <;> simp_all
    case encByte b =>
      simp only [exec, execEncByte] at he; split at he
      · have : s.encRem - 1 = 0 → s.encRem = 1 := by
          intro h; have := BitVec.sub_eq_iff_eq_add.mp h; simpa using this
        split at he <;> cases he <;> simp_all [txNeed, smpNeed, encByteNeed]
        split <;> (try split) <;> omega
      · cases he; simp
    case rsmFirst ch b =>
      have hs : ch.toNat < s.nSess := by simpa [Instr.session?] using hs
      simp only [exec, execRsmFirst, withSession, if_pos hs] at he
      cases he
      by_cases hl : ((s.ctx ch).startChunk b).buf.length = 22
      · simp [rsmPush_completes _ _ _ _ hl, txNeed, smpNeed, pushNeed, hs, firstCompletes, hl, FRAME_LEN]
      · simp [rsmPush_appends _ _ _ _ hl]
    case rsmNext ch b =>
      have hs : ch.toNat < s.nSess := by simpa [Instr.session?] using hs
      simp only [exec, execRsmNext, withSession, if_pos hs] at he
      cases he
      cases hd : (s.ctx ch).drop
      · by_cases hl : (s.ctx ch).buf.length = 22
        · simp [rsmPush_completes _ _ _ _ hl, txNeed, smpNeed, pushNeed, hs, nextCompletes, hl, FRAME_LEN, hd]
        · simp [rsmPush_appends _ _ _ _ hl]
      · simp
    case sysNop | sysRdstat | sysClrstat | crcClr | crcByte | crcRd | encAbort | encRd => cases he; simp
    all_goals
      simp [Instr.session?] at hs
      simp only [exec, execRsmClr, execRsmRd, execRsmRdbuf, execDecRdvc, execDecRdic, execDecRdwc, execDecRdvf,
        execDecRdif, execDecRdwf, execDecRdcnt, withSession, if_pos hs] at he
      cases he
      simp

end Sys2Proof.Machine
end

