-- ==== Sys2Proof/Laws/PerInstr.lean ====
section
/-! SUPPORT. Per-operation families (LAWS.json): the word of an operation matches its row of 30_encoding.md R63. -/

namespace Sys2Proof.Laws.MatchesItsRow

/-- The word of `i` has the unit, function and `match` of some row of the opcode map, which builds `i` from it. -/
def Statement (i : Instr) : Prop :=
  ∃ r ∈ opcodeTable, unitOf (encode i) = r.unit ∧ funcOf (encode i) = r.func ∧
    encode i &&& r.mask = r.pat ∧ r.build (encode i) = i

/-- A word under the mask whose free bits are the whole session field and the immediate bits that `keep` leaves out. -/
theorem match_session (u f : BitVec 4) (ch : Byte) (imm keep : BitVec 16) (h : imm &&& keep = 0) :
    mkWord u f ch imm &&& mkWord 15 15 0 keep = mkWord u f 0 0 := by
  rw [mkWord_and, mkWord_inj]
  exact ⟨BitVec.and_allOnes, BitVec.and_allOnes, by simp, h⟩

/-- A word without session field under the mask whose free bits are the immediate bits that `keep` leaves out. -/
theorem match_plain (u f : BitVec 4) (imm keep : BitVec 16) (h : imm &&& keep = 0) :
    mkWord u f 0 imm &&& mkWord 15 15 255 keep = mkWord u f 0 0 := by
  rw [mkWord_and, mkWord_inj]
  exact ⟨BitVec.and_allOnes, BitVec.and_allOnes, by simp, h⟩

theorem sysNop : Statement .sysNop :=
  ⟨sysRows[0], by simp [opcodeTable, sysRows], by decide, by decide, by decide, rfl⟩

theorem sysRdstat : Statement .sysRdstat :=
  ⟨sysRows[1], by simp [opcodeTable, sysRows], by decide, by decide, by decide, rfl⟩

theorem sysClrstat : Statement .sysClrstat :=
  ⟨sysRows[2], by simp [opcodeTable, sysRows], by decide, by decide, by decide, rfl⟩

theorem crcClr : Statement .crcClr :=
  ⟨crcRows[0], by simp [opcodeTable, crcRows], by decide, by decide, by decide, rfl⟩

theorem crcByte (b : Byte) : Statement (.crcByte b) :=
  ⟨crcRows[1], by simp [opcodeTable, crcRows], by simp [encode, crcRows], by simp [encode, crcRows],
    match_plain 1 1 _ 0xFF00 (immByte_mask b), by simp [encode, crcRows]⟩

theorem crcRd : Statement .crcRd :=
  ⟨crcRows[2], by simp [opcodeTable, crcRows], by decide, by decide, by decide, rfl⟩

theorem encHdr (len : BitVec 16) : Statement (.encHdr len) :=
  ⟨encRows[0], by simp [opcodeTable, encRows], by simp [encode, encRows], by simp [encode, encRows],
    match_plain 2 0 len 0 (by simp), by simp [encode, encRows]⟩

theorem encByte (b : Byte) : Statement (.encByte b) :=
  ⟨encRows[1], by simp [opcodeTable, encRows], by simp [encode, encRows], by simp [encode, encRows],
    match_plain 2 1 _ 0xFF00 (immByte_mask b), by simp [encode, encRows]⟩

theorem encAbort : Statement .encAbort :=
  ⟨encRows[2], by simp [opcodeTable, encRows], by decide, by decide, by decide, rfl⟩

theorem encRd : Statement .encRd :=
  ⟨encRows[3], by simp [opcodeTable, encRows], by decide, by decide, by decide, rfl⟩

theorem rsmFirst (ch b : Byte) : Statement (.rsmFirst ch b) :=
  ⟨rsmRows[0], by simp [opcodeTable, rsmRows], by simp [encode, rsmRows], by simp [encode, rsmRows],
    match_session 3 0 ch _ 0xFF00 (immByte_mask b), by simp [encode, rsmRows]⟩

theorem rsmNext (ch b : Byte) : Statement (.rsmNext ch b) :=
  ⟨rsmRows[1], by simp [opcodeTable, rsmRows], by simp [encode, rsmRows], by simp [encode, rsmRows],
    match_session 3 1 ch _ 0xFF00 (immByte_mask b), by simp [encode, rsmRows]⟩

theorem rsmClr (ch : Byte) : Statement (.rsmClr ch) :=
  ⟨rsmRows[2], by simp [opcodeTable, rsmRows], by simp [encode, rsmRows], by simp [encode, rsmRows],
    match_session 3 2 ch 0 0xFFFF (by simp), by simp [encode, rsmRows]⟩

theorem rsmRd (ch : Byte) : Statement (.rsmRd ch) :=
  ⟨rsmRows[3], by simp [opcodeTable, rsmRows], by simp [encode, rsmRows], by simp [encode, rsmRows],
    match_session 3 3 ch 0 0xFFFF (by simp), by simp [encode, rsmRows]⟩

theorem rsmRdbuf (ch b : Byte) : Statement (.rsmRdbuf ch b) :=
  ⟨rsmRows[4], by simp [opcodeTable, rsmRows], by simp [encode, rsmRows], by simp [encode, rsmRows],
    match_session 3 4 ch _ 0xFF00 (immByte_mask b), by simp [encode, rsmRows]⟩

theorem decRdvc (ch : Byte) : Statement (.decRdvc ch) :=
  ⟨decRows[0], by simp [opcodeTable, decRows], by simp [encode, decRows], by simp [encode, decRows],
    match_session 4 0 ch 0 0xFFFF (by simp), by simp [encode, decRows]⟩

theorem decRdic (ch : Byte) : Statement (.decRdic ch) :=
  ⟨decRows[1], by simp [opcodeTable, decRows], by simp [encode, decRows], by simp [encode, decRows],
    match_session 4 1 ch 0 0xFFFF (by simp), by simp [encode, decRows]⟩

theorem decRdwc (ch : Byte) : Statement (.decRdwc ch) :=
  ⟨decRows[2], by simp [opcodeTable, decRows], by simp [encode, decRows], by simp [encode, decRows],
    match_session 4 2 ch 0 0xFFFF (by simp), by simp [encode, decRows]⟩

theorem decRdvf (ch : Byte) : Statement (.decRdvf ch) :=
  ⟨decRows[3], by simp [opcodeTable, decRows], by simp [encode, decRows], by simp [encode, decRows],
    match_session 4 3 ch 0 0xFFFF (by simp), by simp [encode, decRows]⟩

theorem decRdif (ch : Byte) : Statement (.decRdif ch) :=
  ⟨decRows[4], by simp [opcodeTable, decRows], by simp [encode, decRows], by simp [encode, decRows],
    match_session 4 4 ch 0 0xFFFF (by simp), by simp [encode, decRows]⟩

theorem decRdwf (ch : Byte) : Statement (.decRdwf ch) :=
  ⟨decRows[5], by simp [opcodeTable, decRows], by simp [encode, decRows], by simp [encode, decRows],
    match_session 4 5 ch 0 0xFFFF (by simp), by simp [encode, decRows]⟩

theorem decRdcnt (ch : Byte) : Statement (.decRdcnt ch) :=
  ⟨decRows[6], by simp [opcodeTable, decRows], by simp [encode, decRows], by simp [encode, decRows],
    match_session 4 6 ch 0 0xFFFF (by simp), by simp [encode, decRows]⟩

end Sys2Proof.Laws.MatchesItsRow
end

