-- ==== Sys2Proof/Tests/Slice0.lean ====
section
/-! SUPPORT. Tests with expected values from the spec's vectors (95_test_vectors.md, cited V<n>) and encodings
(30_encoding.md), the refusals of the well-formedness checks, and a witness for every statement's hypotheses. -/

namespace Sys2Proof.Tests

open Sys2Proof.Machine

/-! ## Helpers -/

/-- A view of the next state, `none` for another outcome. -/
def see {α : Type} (f : State → α) : Outcome → Option α
  | .next t => some (f t)
  | .fault _ => none
  | .refused _ => none

/-- One step with the word `w` on the port. -/
def offer (w : Word) (s : State) : Outcome := step { s with ops := [w], acts := [] }

/-- The result of the step's operation. -/
def resOf (t : State) : Option Res := t.results.getLast?

/-- The machine after reset with session 0 holding the buffer `buf` and the drop bit `drop`. -/
def buffered (buf : List Byte) (drop : Bool) : State :=
  { State.reset with sess := [{ Session.reset with buf := buf, drop := drop }, Session.reset] }

/-- The machine after reset with a frame open. -/
def openFrame (rem : BitVec 16) (crc : Byte) : State :=
  { State.reset with encOpen := true, encRem := rem, encCrc := crc }

/-- 22 buffered bytes, `AA` and zeros (V13). -/
def nearlyFull : List Byte := 0xAA :: List.replicate 21 0

/-- The decoder registers after program P2 (V17). -/
def afterP2 : State :=
  { State.reset with sess :=
      [{ Session.reset with drop := true, vc := 0x64000000, ic := 0x20000000, wc := 0x32000000, cnt := 1 },
       Session.reset] }

/-- A machine with the smallest legal streams, TX full. -/
def fullTx (worst : Bool) : State :=
  { State.reset with
      cfg := { txDepth := some 4, smpDepth := some 1, opLatency := 1, worstCaseHold := worst }
      tx := [0xAA, 0, 0, 0] }

/-- The same machine with SMP full and a buffer one byte short of a frame. -/
def fullSmp (worst : Bool) : State :=
  { buffered nearlyFull false with
      cfg := { txDepth := some 4, smpDepth := some 1, opLatency := 1, worstCaseHold := worst }
      smp := [sampleEvent 0 (List.replicate 23 0)] }

/-! ## Well-formedness: a line for each check that the check refuses (30_encoding.md R74, R75) -/

theorem test_wf_accepts : (AsmLine.mk "rsm.rdbuf" [255, 255]).wf = true := by decide
theorem test_wf_unknown : (AsmLine.mk "rsm.push" [0, 1]).error? = some .unknownMnemonic := by decide
theorem test_wf_too_few : (AsmLine.mk "rsm.first" [0]).error? = some .operandCount := by decide
theorem test_wf_too_many : (AsmLine.mk "crc.clr" [0]).error? = some .operandCount := by decide
theorem test_wf_session_range : (AsmLine.mk "dec.rdvc" [256]).error? = some .operandRange := by decide
theorem test_wf_byte_range : (AsmLine.mk "enc.byte" [256]).error? = some .operandRange := by decide
theorem test_wf_length_range : (AsmLine.mk "enc.hdr" [65536]).error? = some .operandRange := by decide
theorem test_wf_bytes_range : (AsmLine.mk "crc.compute" [0, 255, 256]).error? = some .operandRange := by decide
theorem test_wf_chunk_session : (AsmLine.mk "rsm.chunk" []).error? = some .operandCount := by decide

/-- V12: "`enc.frame` with 65536 operands is refused by the assembler". -/
theorem test_wf_size_overflow (args : List Nat) (h : args.length = 65536) (hb : args.all (· ≤ 255) = true) :
    (AsmLine.mk "enc.frame" args).error? = some .sizeOverflow := by
  have hf : asmForms.lookup "enc.frame" = some [.bytes] := by decide
  have hc : checkOperands [.bytes] args = none := by
    cases args <;> simp only [checkOperands, if_pos hb]
  simp only [AsmLine.error?, hf, hc]
  simp [h, LEN_MAX]

theorem test_wf_bad_number : assembleText "crc.byte 0xG1" = .error .badText := rfl
theorem test_wf_mixed_case : assembleText "Crc.clr" = .error .badText := rfl
theorem test_asm_text : assembleText "RSM.FIRST 1, 0xAA ; start" = .ok [0x300100AA#32] := rfl
theorem test_asm_comment_only : assembleText "  ; nothing" = .ok [] := rfl
theorem test_asm_start_monitor : assembleText "enc.start_monitor" = .ok [0x20000001#32, 0x21000008#32] := rfl
theorem test_asm_empty_chunk : assembleText "rsm.chunk 1" = .ok [] := rfl

/-! ## Decoding: one word for every constructor, written out from 30_encoding.md R60, R62, R63 and R64 as
UNIT, FUNC, CH, IMM -/

theorem test_decode_sys :
    decode 0b0000_0000_00000000_0000000000000000#32 = .ok .sysNop ∧
    decode 0b0000_0001_00000000_0000000000000000#32 = .ok .sysRdstat ∧
    decode 0b0000_0010_00000000_0000000000000000#32 = .ok .sysClrstat := by decide

theorem test_decode_crc :
    decode 0b0001_0000_00000000_0000000000000000#32 = .ok .crcClr ∧
    decode 0b0001_0001_00000000_0000000010110011#32 = .ok (.crcByte 0xB3) ∧
    decode 0b0001_0010_00000000_0000000000000000#32 = .ok .crcRd := by decide

theorem test_decode_enc :
    decode 0b0010_0000_00000000_1111111011011100#32 = .ok (.encHdr 0xFEDC) ∧
    decode 0b0010_0001_00000000_0000000000001000#32 = .ok (.encByte 0x08) ∧
    decode 0b0010_0010_00000000_0000000000000000#32 = .ok .encAbort ∧
    decode 0b0010_0011_00000000_0000000000000000#32 = .ok .encRd := by decide

theorem test_decode_rsm :
    decode 0b0011_0000_10000001_0000000010101010#32 = .ok (.rsmFirst 0x81 0xAA) ∧
    decode 0b0011_0001_00000001_0000000001100100#32 = .ok (.rsmNext 1 0x64) ∧
    decode 0b0011_0010_11111111_0000000000000000#32 = .ok (.rsmClr 0xFF) ∧
    decode 0b0011_0011_00000001_0000000000000000#32 = .ok (.rsmRd 1) ∧
    decode 0b0011_0100_00000010_0000000000000100#32 = .ok (.rsmRdbuf 2 4) := by decide

theorem test_decode_dec :
    decode 0b0100_0000_00000001_0000000000000000#32 = .ok (.decRdvc 1) ∧
    decode 0b0100_0001_00000010_0000000000000000#32 = .ok (.decRdic 2) ∧
    decode 0b0100_0010_00000011_0000000000000000#32 = .ok (.decRdwc 3) ∧
    decode 0b0100_0011_00000100_0000000000000000#32 = .ok (.decRdvf 4) ∧
    decode 0b0100_0100_00000101_0000000000000000#32 = .ok (.decRdif 5) ∧
    decode 0b0100_0101_00000110_0000000000000000#32 = .ok (.decRdwf 6) ∧
    decode 0b0100_0110_11111111_0000000000000000#32 = .ok (.decRdcnt 0xFF) := by decide

/-- V18: each illegal word, with the condition of 30_encoding.md R66 that makes it so. -/
theorem test_decode_illegal :
    decode 0x00000001#32 = .illegal .unusedField ∧ decode 0x03000000#32 = .illegal .unassigned ∧
    decode 0x24000000#32 = .illegal .unassigned ∧ decode 0x35000000#32 = .illegal .unassigned ∧
    decode 0x47000000#32 = .illegal .unassigned ∧ decode 0x50000000#32 = .illegal .unassigned ∧
    decode 0xF0000000#32 = .illegal .unassigned ∧ decode 0x3105FF00#32 = .illegal .unusedField ∧
    decode 0x4002FFFF#32 = .illegal .unusedField ∧ decode 0x20010001#32 = .illegal .unusedField := by decide

theorem test_table_word : decodeTableWord 32 0x300200AA = some (.rsmFirst 2 0xAA) := by decide

theorem test_fetch_word :
    see resOf (step (State.reset.withFetchWord 32 0x23000000)) = some (some 0) := by decide

/-! ## One step of every operation -/

/-- V18. -/
theorem test_sys_nop : see (fun t => (resOf t, t.status)) (offer 0x00000000 State.reset) = some (some 0, 0) := by
  decide

/-- V12: an error while a frame is open reads 0x10304. -/
theorem test_sys_rdstat :
    see resOf (offer 0x01000000 { openFrame 2 0 with sticky := 4, lastErr := 3 }) = some (some 0x10304) := by decide

/-- V18: `sys.clrstat` leaves 0x10000 while a frame is open. -/
theorem test_sys_clrstat :
    see State.status (offer 0x02000000 { openFrame 2 0 with sticky := 3, lastErr := 1 }) = some 0x10000 := by decide

/-- V11. -/
theorem test_crc_clr : see State.crcReg (offer 0x10000000 { State.reset with crcReg := 0xB3 }) = some 0x00 := by
  decide

/-- V11. -/
theorem test_crc_byte : see State.crcReg (offer 0x11000008 State.reset) = some 0xB3 := by decide

/-- V11: the fixed point 0x83. -/
theorem test_crc_byte_fixed :
    see State.crcReg (offer 0x11000000 { State.reset with crcReg := 0x83 }) = some 0x83 := by decide

/-- V11. -/
theorem test_crc_rd : see resOf (offer 0x12000000 { State.reset with crcReg := 0xB3 }) = some (some 0xB3) := by decide

/-- V12: the empty payload's frame. -/
theorem test_enc_hdr_empty :
    see (fun t => (t.tx, t.encOpen)) (offer 0x20000000 State.reset) = some ([0xAA, 0, 0, 0], false) := by decide

/-- V12: the length goes out high byte first. -/
theorem test_enc_hdr :
    see (fun t => (t.tx, t.encOpen, t.encRem)) (offer 0x20000100 State.reset) =
      some ([0xAA, 0x01, 0x00], true, 0x100) := by decide

/-- V12: the second and last byte of `01 02`. -/
theorem test_enc_byte_last :
    see (fun t => (t.tx, t.encOpen, t.encRem, t.encCrc)) (offer 0x21000002 (openFrame 1 0x85)) =
      some ([0x02, 0x18], false, 0, 0x18) := by decide

/-- V12: E_ENC_IDLE. -/
theorem test_enc_byte_idle :
    see (fun t => (t.tx, t.status)) (offer 0x21000008 State.reset) = some ([], 0x408) := by decide

/-- V12: a truncated frame stays in TX. -/
theorem test_enc_abort :
    see (fun t => (t.tx, t.encOpen, t.encRem, t.encCrc))
      (offer 0x22000000 { openFrame 1 0x85 with tx := [0xAA, 0x00, 0x02, 0x01] }) =
      some ([0xAA, 0x00, 0x02, 0x01], false, 0, 0) := by decide

/-- V12. -/
theorem test_enc_rd : see resOf (offer 0x23000000 (openFrame 1 0x85)) = some (some 0x85010001) := by decide

/-- V13: the marker discards 22 bytes. -/
theorem test_rsm_first_marker :
    see (fun t => (t.ctx 0, t.smp)) (offer 0x300000AA (buffered nearlyFull true)) =
      some ({ Session.reset with buf := [0xAA] }, []) := by decide

/-- V13: a non-marker first byte completes the frame. -/
theorem test_rsm_first_completes :
    see (fun t => ((t.ctx 0).buf, (t.ctx 0).drop, t.smp.map SampleEvent.frame))
      (offer 0x30000077 (buffered nearlyFull false)) = some ([], true, [nearlyFull ++ [0x77]]) := by decide

/-- V13: after a completion the rest of the chunk is dropped. -/
theorem test_rsm_next_dropped :
    see (fun t => ((t.ctx 0).buf, (t.ctx 0).drop)) (offer 0x31000055 (buffered [] true)) = some ([], true) := by decide

/-- V15: the codes of the frame `01 02 … 17`. -/
theorem test_rsm_next_completes :
    see (fun t => t.smp.map (fun e => (e.vcode, e.icode, e.wcode)))
      (offer 0x31000017 (buffered ((List.range 22).map fun n => BitVec.ofNat 8 (n + 1)) false)) =
      some [(0x0B0A09080706, 0x11100F0E0D0C, 0x171615141312)] := by decide

/-- V13, on session 0. -/
theorem test_rsm_clr :
    see (fun t => (t.ctx 0).buf) (offer 0x32000000 (buffered [1, 2, 3] false)) = some [] := by decide

/-- V13: `rsm.clr 1` leaves session 0 alone. -/
theorem test_rsm_clr_other :
    see (fun t => (t.ctx 0).buf) (offer 0x32010000 (buffered [1, 2, 3] false)) = some [1, 2, 3] := by decide

/-- P2, line 25. -/
theorem test_rsm_rd : see resOf (offer 0x33000000 afterP2) = some (some 0x100) := by decide

/-- V13: byte 2 of `AA 01 02`. -/
theorem test_rsm_rdbuf : see resOf (offer 0x34000002 (buffered [0xAA, 1, 2] false)) = some (some 0x02) := by decide

/-- V13: at the length it reads 0. -/
theorem test_rsm_rdbuf_end : see resOf (offer 0x34000003 (buffered [0xAA, 1, 2] false)) = some (some 0) := by decide

/-- V17, P2 lines 26 to 32. -/
theorem test_dec_rdvc : see resOf (offer 0x40000000 afterP2) = some (some 0x64000000) := by decide
theorem test_dec_rdic : see resOf (offer 0x41000000 afterP2) = some (some 0x20000000) := by decide
theorem test_dec_rdwc : see resOf (offer 0x42000000 afterP2) = some (some 0x32000000) := by decide
theorem test_dec_rdvf : see resOf (offer 0x43000000 afterP2) = some (some 0x4059000000000000) := by decide
theorem test_dec_rdif : see resOf (offer 0x44000000 afterP2) = some (some 0x3FE0000000000000) := by decide
theorem test_dec_rdwf : see resOf (offer 0x45000000 afterP2) = some (some 0x4049000000000000) := by decide
theorem test_dec_rdcnt : see resOf (offer 0x46000000 afterP2) = some (some 1) := by decide

/-- V17: `dec.rdcnt 2` with two sessions. -/
theorem test_dec_rdcnt_badch :
    see (fun t => (resOf t, t.status)) (offer 0x46020000 afterP2) = some (some 0, 0x202) := by decide

/-- V18: the illegal encoding wins over the session check. -/
theorem test_illegal_wins : see State.status (offer 0x3105FF00 State.reset) = some 0x101 := by decide

/-- 20_memory.md R46: one free byte in TX takes a payload byte that is not the last, and not the last with its CRC. -/
theorem test_hold :
    held 0x21000002#32 { fullTx false with tx := [1, 2, 3], encOpen := true, encRem := 2 } = false ∧
    held 0x21000002#32 { fullTx false with tx := [1, 2, 3], encOpen := true, encRem := 1 } = true := by decide

/-! ## The shared functions -/

/-- V10. -/
theorem test_crc8 :
    crc8 [0x01] = 0x85 ∧ crc8 [0x80] = 0x89 ∧ crc8 [0xFF] = 0x8D ∧ crc8 [0xAA] = 0xF6 ∧ crc8 [0x08, 0x08] = 0x90 ∧
    crc8 [0x01, 0x02, 0x03, 0x04] = 0xC2 ∧ crc8 [0xAA, 0x00, 0x01, 0x08] = 0x4E := by decide +kernel

/-- V2. -/
theorem test_encode_command :
    (encodeCommand [0x01, 0x02]).toOption = some [0xAA, 0x00, 0x02, 0x01, 0x02, 0x18] := by decide +kernel

/-- V5: the vector that tells the two byte orders apart. -/
theorem test_le48 : le48 (List.replicate 10 0 ++ [0x01] ++ List.replicate 12 0) 5 = 0x010000000000 := by decide

/-- V16 and V7. -/
theorem test_bits64 :
    bits64 1 24 = 0x3E70000000000000 ∧ bits64 1 30 = 0x3E10000000000000 ∧
    bits64 0x64800000 24 = 0x4059200000000000 ∧ bits64 0x159000000 24 = 0x4075900000000000 ∧
    bits64 0x123456789ABC 30 = 0x40D23456789ABC00 ∧ bits64 0xFFFFFFFFFFFF 30 = 0x410FFFFFFFFFFFE0 ∧
    bits64 0x800000000000 30 = 0x4100000000000000 := by decide

/-- V16: the number an encoding stands for. -/
theorem test_f64Value : f64Value 0x4059200000000000 = some (201 / 2) := by decide +kernel

/-- V14: a 46-byte marker chunk holding two frames yields one frame. -/
theorem test_rsm_ref :
    rsmRef [1, 2] (nearlyFull ++ [0x77] ++ nearlyFull ++ [0x78]) = ([], some (nearlyFull ++ [0x77])) := by decide

/-! ## Witnesses: for every statement with hypotheses, a state and operands that meet them, each clause at the edge
of its range -/

/-- A machine whose session 0 holds 22 bytes is legal. -/
theorem legal_buffered : (buffered (0xAA :: List.replicate 21 0) false).Inv :=
  { sessions := by decide, config := by decide, status := .inl (by decide), encClosed := by decide, encOpened := by decide,
    contexts := by
      intro c hc
      simp only [buffered, List.mem_cons, List.not_mem_nil, or_false] at hc
      rcases hc with rfl | rfl <;> constructor <;> decide
    events := by intro e he; simp [buffered, State.reset, State.init] at he
    txDepth := by intro d hd; cases hd
    smpDepth := by intro d hd; cases hd }

/-- A machine whose session 0 drops the rest of its chunk is legal. -/
theorem legal_dropping : (buffered [] true).Inv :=
  { sessions := by decide, config := by decide, status := .inl (by decide), encClosed := by decide, encOpened := by decide,
    contexts := by
      intro c hc
      simp only [buffered, List.mem_cons, List.not_mem_nil, or_false] at hc
      rcases hc with rfl | rfl <;> constructor <;> decide
    events := by intro e he; simp [buffered, State.reset, State.init] at he
    txDepth := by intro d hd; cases hd
    smpDepth := by intro d hd; cases hd }

/-- The machine whose TX is full, an operation offered and held, the host about to take every byte. -/
def drainState : State := { fullTx true with ops := [0x20000001#32], acts := List.replicate 4 .takeTx }

theorem legal_drainState : drainState.Inv :=
  { sessions := by decide, config := by decide, status := .inl (by decide), encClosed := by decide, encOpened := by decide,
    contexts := by
      intro c hc
      have h : c = Session.reset := List.eq_of_mem_replicate (n := 2) hc
      subst h
      constructor <;> decide
    events := by intro e he; simp [drainState, fullTx, State.reset, State.init] at he
    txDepth := by intro d hd; cases hd; decide
    smpDepth := by intro d hd; cases hd; decide }

/-! Encoding -/

theorem witness_EncodeDecodeSameWord : decode 0x300100AA#32 = .ok (.rsmFirst 1 0xAA) := by decide

theorem witness_WordSelectsItsRow : ∃ r ∈ opcodeTable, ∃ q ∈ opcodeTable,
    0x21000008#32 &&& r.mask = r.pat ∧ 0x21000008#32 &&& q.mask = q.pat := by decide

theorem witness_IllegalWordsExactly :
    decode 0x50000000#32 = .illegal .unassigned ∧ decode 0x00000001#32 = .illegal .unusedField := by decide

/-! The port -/

/-- The word `ENC.HDR 1` at the port of the machine whose TX is full is held. -/
def heldState : State := { fullTx false with ops := [0x20000001#32], acts := [.operate, .takeTx] }

theorem witness_StepRunsOfferedWord_idle : State.reset.acts = [] ∧ State.reset.ops = [] := by decide
theorem witness_StepRunsOfferedWord_held :
    heldState.acts = .operate :: [.takeTx] ∧ heldState.ops = 0x20000001#32 :: [] ∧
    held 0x20000001#32 heldState = true := by decide
theorem witness_StepRunsOfferedWord_runs :
    ({ State.reset with ops := [0x20000001#32] } : State).acts = [] ∧
    held 0x20000001#32 { State.reset with ops := [0x20000001#32] } = false ∧
    decode 0x20000001#32 = .ok (.encHdr 1) := by decide
theorem witness_StepRunsOfferedWord_illegal :
    ({ State.reset with ops := [0x50000000#32] } : State).ops = 0x50000000#32 :: [] ∧
    decode 0x50000000#32 = .illegal .unassigned := by decide

theorem witness_OneResultPerOperation_write :
    decode 0x11000008#32 = .ok (.crcByte 0x08) ∧ isRead (.crcByte 0x08) = false := by decide
theorem witness_OneResultPerOperation_badCh :
    decode 0x46020000#32 = .ok (.decRdcnt 2) ∧ (Instr.decRdcnt 2).session? = some 2 ∧
    State.reset.nSess ≤ (2 : Byte).toNat := by decide

theorem witness_ErrorChecksInOrder_unassigned : rowOf 0x47000000#32 = none := rfl
theorem witness_ErrorChecksInOrder_unusedField :
    ∃ r, rowOf 0x00000001#32 = some r ∧ 0x00000001#32 &&& r.mask ≠ r.pat := ⟨_, rfl, by decide⟩
theorem witness_ErrorChecksInOrder_badCh :
    ∃ r, rowOf 0x300200AA#32 = some r ∧ 0x300200AA#32 &&& r.mask = r.pat ∧ r.unit = 3 ∧
      State.reset.nSess ≤ (chOf 0x300200AA#32).toNat := ⟨_, rfl, by decide⟩
theorem witness_ErrorChecksInOrder_badCh_dec :
    ∃ r, rowOf 0x40020000#32 = some r ∧ 0x40020000#32 &&& r.mask = r.pat ∧ r.unit = 4 ∧
      State.reset.nSess ≤ (chOf 0x40020000#32).toNat := ⟨_, rfl, by decide⟩
theorem witness_ErrorChecksInOrder_busy :
    decode 0x20000001#32 = .ok (.encHdr 1) ∧ (openFrame 1 0).encOpen = true := by decide
theorem witness_ErrorChecksInOrder_encIdle :
    decode 0x21000008#32 = .ok (.encByte 0x08) ∧ State.reset.encOpen = false := by decide
theorem witness_ErrorChecksInOrder_changes : ∃ t, accept 0x21000008#32 State.reset = .next t ∧
    (t.sticky, t.lastErr) ≠ (State.reset.sticky, State.reset.lastErr) := ⟨_, rfl, by decide⟩

theorem witness_ErrorsOnlyFromTheirOperations : ∃ t, exec (.encByte 0x08) State.reset = .next t := ⟨_, rfl⟩

theorem witness_ErrorBitsAccumulate : ∃ t, step { State.reset with ops := [0x50000000#32] } = .next t := ⟨_, rfl⟩

theorem witness_HoldOnlyForLackOfRoom_exact :
    (fullSmp false).cfg.worstCaseHold = false ∧ ∃ t, exec (.rsmNext 0 0x77) (fullSmp false) = .next t :=
  ⟨rfl, _, rfl⟩
theorem witness_HoldOnlyForLackOfRoom_worst :
    (fullSmp true).cfg.worstCaseHold = true ∧ heldInstr (.rsmNext 1 0x77) (fullSmp true) = true := by decide
theorem witness_HoldOnlyForLackOfRoom_kinds :
    (∀ len, Instr.rsmRd 0 ≠ .encHdr len) ∧ (∀ b, Instr.rsmRd 0 ≠ .encByte b) ∧
    (∀ ch b, Instr.rsmRd 0 ≠ .rsmFirst ch b ∧ Instr.rsmRd 0 ≠ .rsmNext ch b) := by simp
theorem witness_HoldOnlyForLackOfRoom_unbounded :
    State.reset.cfg.txDepth = none ∧ State.reset.cfg.smpDepth = none := by decide
theorem witness_HoldOnlyForLackOfRoom_held :
    ({ fullTx false with ops := [0x20000001#32] } : State).acts = [] ∧
    held 0x20000001#32 { fullTx false with ops := [0x20000001#32] } = true := by decide

theorem witness_TxStreamLosesNothing_step :
    (∃ t, step heldState = .next t) ∧ ∀ again, heldState.acts.head? ≠ some (.reset again) :=
  ⟨⟨_, rfl⟩, by decide⟩
theorem witness_TxStreamLosesNothing_exec : ∃ t, exec (.encHdr 1) State.reset = .next t := ⟨_, rfl⟩
theorem witness_TxStreamLosesNothing_take :
    ({ fullTx false with acts := [.takeTx] } : State).acts = .takeTx :: [] ∧
    (fullTx false).tx = 0xAA :: [0, 0, 0] := by decide

theorem witness_OneEventPerCompletedFrame_step :
    (∃ t, step { fullSmp false with acts := [.takeSmp] } = .next t) ∧
    ∀ again, ({ fullSmp false with acts := [.takeSmp] } : State).acts.head? ≠ some (.reset again) :=
  ⟨⟨_, rfl⟩, by decide⟩
theorem witness_OneEventPerCompletedFrame_exec :
    ∃ t, exec (.rsmFirst 0 0x77) (buffered nearlyFull false) = .next t := ⟨_, rfl⟩
theorem witness_OneEventPerCompletedFrame_take :
    ({ fullSmp false with acts := [.takeSmp] } : State).acts = .takeSmp :: [] ∧
    (fullSmp false).smp = sampleEvent 0 (List.replicate 23 0) :: [] := by decide

theorem witness_ResetWinsAndClears :
    ({ heldState with acts := [.reset true] } : State).acts = .reset true :: [] ∧
    ({ heldState with acts := [.reset false, .operate] } : State).acts = .reset false :: [.operate] := by decide

theorem witness_DrainingReleasesTheHold_drained :
    ∃ s : State, s.Inv ∧ s.ops = 0x20000001#32 :: [] ∧ held 0x20000001#32 s = true ∧
      s.acts = List.replicate s.tx.length .takeTx ++ List.replicate s.smp.length .takeSmp :=
  ⟨_, legal_drainState, rfl, by decide, by decide⟩
theorem witness_DrainingReleasesTheHold_waits :
    ({ fullTx false with ops := [0x20000001#32] } : State).ops = 0x20000001#32 :: [] ∧
    ({ fullTx false with ops := [0x20000001#32] } : State).acts = [] ∧
    held 0x20000001#32 { fullTx false with ops := [0x20000001#32] } = true := by decide

theorem witness_RunIsOperationsInOrder :
    ({ State.reset with ops := [0x20000001#32, 0x21000008#32] } : State).cfg.txDepth = none ∧
    ({ State.reset with ops := [0x20000001#32, 0x21000008#32] } : State).cfg.smpDepth = none ∧
    ({ State.reset with ops := [0x20000001#32, 0x21000008#32] } : State).acts = [] ∧
    ({ State.reset with ops := [0x20000001#32, 0x21000008#32] } : State).ops =
      [Instr.encHdr 1, .encByte 0x08].map encode := by decide

/-! System and CRC operations -/

theorem witness_SysNopRule : opcodeOf 0x00800000#32 = 0x00 ∧ (0x00800000#32).extractLsb' 0 24 ≠ 0 := by decide
theorem witness_SysRdstatRule : opcodeOf 0x01000001#32 = 0x01 ∧ (0x01000001#32).extractLsb' 0 24 ≠ 0 := by decide
theorem witness_SysClrstatRule : opcodeOf 0x02800000#32 = 0x02 ∧ (0x02800000#32).extractLsb' 0 24 ≠ 0 := by decide

theorem witness_CrcLaws : ([0x08, 0xFF] : List Byte).length = ([0x01, 0xAA] : List Byte).length := by decide
theorem witness_CrcClrRule : opcodeOf 0x10000001#32 = 0x10 ∧ (0x10000001#32).extractLsb' 0 24 ≠ 0 := by decide
theorem witness_CrcByteRule_unused : opcodeOf 0x11000108#32 = 0x11 ∧ (0x11000108#32).extractLsb' 8 16 ≠ 0 := by decide
theorem witness_CrcByteRule_register : (0x83 : Byte) ≠ 0x00 ∧ (0x01 : Byte) ≠ 0x00 := by decide
theorem witness_CrcRdRule : opcodeOf 0x12000001#32 = 0x12 ∧ (0x12000001#32).extractLsb' 0 24 ≠ 0 := by decide

/-! Encoder -/

theorem witness_EncHdrRule_unused : opcodeOf 0x20010001#32 = 0x20 ∧ (0x20010001#32).extractLsb' 16 8 ≠ 0 := by decide
theorem witness_EncHdrRule_busy : (openFrame 0xFFFF 0).encOpen = true := by decide
theorem witness_EncHdrRule_idle :
    State.reset.encOpen = false ∧ (1 : BitVec 16) ≠ 0 ∧ (0xFFFF : BitVec 16) ≠ 0 := by decide
theorem witness_EncByteRule_unused : opcodeOf 0x21000108#32 = 0x21 ∧ (0x21000108#32).extractLsb' 8 16 ≠ 0 := by decide
theorem witness_EncByteRule_idle : State.reset.encOpen = false := by decide
theorem witness_EncByteRule_last : (openFrame 1 0x85).encOpen = true ∧ (openFrame 1 0x85).encRem.toNat = 1 := by decide
theorem witness_EncByteRule_more :
    (openFrame 2 0).encOpen = true ∧ 1 < (openFrame 2 0).encRem.toNat ∧
    (openFrame 0xFFFF 0).encOpen = true ∧ 1 < (openFrame 0xFFFF 0).encRem.toNat := by decide
theorem witness_EncAbortRule : opcodeOf 0x22000001#32 = 0x22 ∧ (0x22000001#32).extractLsb' 0 24 ≠ 0 := by decide
theorem witness_EncRdRule : opcodeOf 0x23800000#32 = 0x23 ∧ (0x23800000#32).extractLsb' 0 24 ≠ 0 := by decide

theorem witness_CommandFrameLaws_large : 65535 < (List.replicate 65536 (0xFF : Byte)).length := by
  rw [List.length_replicate]; decide
theorem witness_CommandFrameLaws_largest : (List.replicate 65535 (0xFF : Byte)).length ≤ 65535 := by
  rw [List.length_replicate]

theorem witness_EncoderPortEqualsReference_plain :
    encodeCommand [0x08] = .ok [0xAA, 0x00, 0x01, 0x08, 0xB3] ∧ State.reset.encOpen = false := ⟨rfl, rfl⟩
theorem witness_EncoderPortEqualsReference_interleaved :
    encodeCommand [0x08] = .ok [0xAA, 0x00, 0x01, 0x08, 0xB3] ∧
    [Instr.sysNop, .encHdr 1, .crcByte 3, .rsmFirst 0 0xAA, .encByte 0x08].filter isEnc = frameOps [0x08] :=
  ⟨rfl, by decide⟩
theorem witness_StartMonitoringFrame : afterP2.encOpen = false := by decide

/-! Reassembler: session 1 is the last, session 2 the first absent one -/

theorem witness_RsmFirstRule_unused : opcodeOf 0x30050100#32 = 0x30 ∧ (0x30050100#32).extractLsb' 8 8 ≠ 0 := by decide
theorem witness_RsmFirstRule_badCh : (buffered nearlyFull false).nSess ≤ (2 : Byte).toNat := by decide
theorem witness_RsmFirstRule_marker : (1 : Byte).toNat < (buffered nearlyFull false).nSess := by decide
theorem witness_RsmFirstRule_appends :
    (0 : Byte).toNat < (buffered (nearlyFull.drop 1) false).nSess ∧ (0x77 : Byte) ≠ 0xAA ∧
    ((buffered (nearlyFull.drop 1) false).ctx 0).buf.length = 21 ∧
    ((buffered (nearlyFull.drop 1) false).ctx 0).buf.length ≠ 22 := by decide
theorem witness_RsmFirstRule_completes :
    (0 : Byte).toNat < (buffered nearlyFull false).nSess ∧ (0x77 : Byte) ≠ 0xAA ∧
    ((buffered nearlyFull false).ctx 0).buf.length = 22 ∧
    nearlyFull ++ [0x77] = ((buffered nearlyFull false).ctx 0).buf ++ [0x77] := by decide

theorem witness_RsmNextRule_unused : opcodeOf 0x3105FF00#32 = 0x31 ∧ (0x3105FF00#32).extractLsb' 8 8 ≠ 0 := by decide
theorem witness_RsmNextRule_badCh : (buffered nearlyFull false).nSess ≤ (2 : Byte).toNat := by decide
theorem witness_RsmNextRule_dropped :
    (0 : Byte).toNat < (buffered [] true).nSess ∧ ((buffered [] true).ctx 0).drop = true := by decide
theorem witness_RsmNextRule_appends :
    (0 : Byte).toNat < (buffered (nearlyFull.drop 1) false).nSess ∧
    ((buffered (nearlyFull.drop 1) false).ctx 0).drop = false ∧
    ((buffered (nearlyFull.drop 1) false).ctx 0).buf.length ≠ 22 := by decide
theorem witness_RsmNextRule_completes :
    (0 : Byte).toNat < (buffered nearlyFull false).nSess ∧ ((buffered nearlyFull false).ctx 0).drop = false ∧
    ((buffered nearlyFull false).ctx 0).buf.length = 22 ∧
    nearlyFull ++ [0xAA] = ((buffered nearlyFull false).ctx 0).buf ++ [0xAA] := by decide

theorem witness_RsmClrRule :
    opcodeOf 0x32010001#32 = 0x32 ∧ (0x32010001#32).extractLsb' 0 16 ≠ 0 ∧
    (buffered nearlyFull true).nSess ≤ (2 : Byte).toNat ∧ (1 : Byte).toNat < (buffered nearlyFull true).nSess := by decide
theorem witness_RsmRdRule :
    opcodeOf 0x33018000#32 = 0x33 ∧ (0x33018000#32).extractLsb' 0 16 ≠ 0 ∧
    (buffered nearlyFull true).nSess ≤ (2 : Byte).toNat ∧ (0 : Byte).toNat < (buffered nearlyFull true).nSess ∧
    ((buffered nearlyFull true).ctx 0).buf.length ≤ 22 := by decide
theorem witness_RsmRdbufRule_errors :
    opcodeOf 0x34000100#32 = 0x34 ∧ (0x34000100#32).extractLsb' 8 8 ≠ 0 ∧
    (buffered nearlyFull false).nSess ≤ (2 : Byte).toNat := by decide
theorem witness_RsmRdbufRule_inside :
    (0 : Byte).toNat < (buffered nearlyFull false).nSess ∧
    ((buffered nearlyFull false).ctx 0).buf[(21 : Byte).toNat]? = some 0 := by decide
theorem witness_RsmRdbufRule_above :
    (0 : Byte).toNat < (buffered nearlyFull false).nSess ∧
    ((buffered nearlyFull false).ctx 0).buf.length ≤ (22 : Byte).toNat := by decide

theorem witness_ReassemblerEqualsReference :
    (0 : Byte).toNat < (buffered nearlyFull true).nSess ∧ ((buffered nearlyFull true).ctx 0).buf.length ≤ 22 ∧
    ([0x77] : List Byte) ≠ [] := by decide

theorem witness_RestOfChunkIsDropped :
    (buffered [] true).Inv ∧ (0 : Byte).toNat < (buffered [] true).nSess ∧ ((buffered [] true).ctx 0).drop = true :=
  ⟨legal_dropping, by decide, by decide⟩

/-- A split of 1 + 21 + 1 bytes, from a session that holds 22 stale bytes. -/
theorem witness_SplitsYieldTheFrame :
    (0 : Byte).toNat < (buffered nearlyFull true).nSess ∧ ([0xAA] : List Byte).head? = some 0xAA ∧
    (∀ c ∈ [List.replicate 21 (0x01 : Byte), [0x02]], c ≠ [] ∧ c.head? ≠ some 0xAA) ∧
    ([0xAA] ++ [List.replicate 21 (0x01 : Byte), [0x02]].flatten).length = 23 := by decide

/-! Decoder -/

theorem witness_FieldIsLittleEndianUnsigned : 17 + 6 ≤ (nearlyFull ++ [0x77]).length := by decide
theorem witness_FirstBytesDoNotDecode :
    (nearlyFull ++ [0x77]).length = 23 ∧ ([1, 2, 3, 4, 5] ++ (nearlyFull ++ [0x77]).drop 5 : List Byte).length = 23 ∧
    (nearlyFull ++ [0x77]).drop 5 = ([1, 2, 3, 4, 5] ++ (nearlyFull ++ [0x77]).drop 5 : List Byte).drop 5 := by decide
theorem witness_DecodedBitPattern :
    ((1 : Res) ≠ 0 ∧ (1 : Res).toNat < 2 ^ 48) ∧
    ((0xFFFFFFFFFFFF : Res) ≠ 0 ∧ (0xFFFFFFFFFFFF : Res).toNat < 2 ^ 48) := by decide
theorem witness_DecodedValueIsExact : (0 : Res).toNat < 2 ^ 48 ∧ (0xFFFFFFFFFFFF : Res).toNat < 2 ^ 48 := by decide
theorem witness_BitFortySevenIsNotASign :
    (2 ^ 47 ≤ (0x800000000000 : Res).toNat ∧ (0x800000000000 : Res).toNat < 2 ^ 48) ∧
    (2 ^ 47 ≤ (0xFFFFFFFFFFFF : Res).toNat ∧ (0xFFFFFFFFFFFF : Res).toNat < 2 ^ 48) := by decide
theorem witness_DecReadRules_unused :
    (opcodeOf 0x40000001#32 = 0x40 ∧ (0x40000001#32).extractLsb' 0 16 ≠ 0) ∧
    (opcodeOf 0x46008000#32 = 0x46 ∧ (0x46008000#32).extractLsb' 0 16 ≠ 0) := by decide
theorem witness_DecReadRules_sessions :
    afterP2.nSess ≤ (2 : Byte).toNat ∧ (1 : Byte).toNat < afterP2.nSess := by decide
theorem witness_DecReadRules_reset : (0xFF : Byte).toNat < 256 ∧ (0 : Byte).toNat < 1 := by decide
theorem witness_DecReadRules_legal :
    (buffered nearlyFull false).Inv ∧ (1 : Byte).toNat < (buffered nearlyFull false).nSess :=
  ⟨legal_buffered, by decide⟩

/-! Whole machine -/

theorem witness_StepKeepsInvariant : ∃ s t : State, s.Inv ∧ step s = .next t ∧ t.tx ≠ s.tx :=
  ⟨_, _, legal_drainState, rfl, by decide⟩

theorem witness_ResetMeetsInvariant :
    1 ≤ 256 ∧ ({ txDepth := some 4, smpDepth := some 1, opLatency := 7, worstCaseHold := true } : Config).legal = true := by
  decide

theorem witness_ParametersAreFixed :
    ∃ t, step { buffered nearlyFull false with acts := [.reset true] } = .next t := ⟨_, rfl⟩

theorem witness_SessionsAreIsolated :
    (Instr.rsmFirst 0 0x77).session? ≠ some 1 ∧ ∃ t, exec (.rsmFirst 0 0x77) (buffered nearlyFull false) = .next t :=
  ⟨by decide, _, rfl⟩

/-- Two interleavings of the same two session streams. -/
theorem witness_SessionDependsOnItsOperations :
    ∀ ch, [Instr.rsmFirst 0 0xAA, .rsmFirst 1 0x55, .decRdcnt 1].filter (onSession ch) =
      [Instr.rsmFirst 1 0x55, .decRdcnt 1, .rsmFirst 0 0xAA].filter (onSession ch) := by decide

theorem witness_UnitsTouchOnlyTheirState : ∃ t, exec (.decRdvf 1) afterP2 = .next t := ⟨_, rfl⟩
theorem witness_UnitsTouchOnlyTheirState_clauses :
    (Instr.encHdr 1 ≠ .crcClr ∧ ∀ b, Instr.encHdr 1 ≠ .crcByte b) ∧ isEnc (.crcByte 8) = false ∧
    (Instr.crcByte 8).session? = none ∧ (∀ ch b, Instr.rsmClr 0 ≠ .rsmFirst ch b ∧ Instr.rsmClr 0 ≠ .rsmNext ch b) ∧
    isRead .encRd = true := by
  refine ⟨⟨?_, ?_⟩, ?_, ?_, ?_, ?_⟩ <;> simp [isEnc, isRead, Instr.session?]

theorem witness_IdempotentOperations_read :
    isRead (.rsmRdbuf 1 0) = true ∧ ∀ ch, (Instr.rsmRdbuf 1 0).session? = some ch → ch.toNat < State.reset.nSess := by
  decide
theorem witness_IdempotentOperations_error : Raises 0b0010#4 2 0x300200AA#32 State.reset := ⟨rfl, rfl⟩

/-! Assembler -/

theorem witness_OperandFormsAssemble :
    ("dec.rdcnt", Instr.decRdcnt) ∈ [("rsm.clr", Instr.rsmClr), ("dec.rdcnt", .decRdcnt)] := by simp

theorem witness_PseudoOperationsExpand :
    (∀ n ∈ [0, 255], n ≤ 255) ∧ [0, 255].length ≤ 65535 ∧ (∀ n ∈ List.replicate 65536 255, n ≤ 255) ∧
    65535 < (List.replicate 65536 255).length := by
  refine ⟨by decide, by decide, fun n h => ?_, ?_⟩
  · rw [List.eq_of_mem_replicate h]
  · rw [List.length_replicate]; decide

end Sys2Proof.Tests
end

section
/-! The parameters of the block (00_scope.md R8) along a step. -/

namespace Sys2Proof.Machine

/-- Asserting reset keeps the number of contexts, whether or not the word is offered again: each context is reset, none
is added or removed. -/
@[simp] theorem nSess_assertReset (again : Bool) (s : State) : (assertReset again s).nSess = s.nSess := by
  cases again
  · exact s.nSess_resetBlock
  · exact s.nSess_resetBlock

@[simp] theorem cfg_assertReset (again : Bool) (s : State) : (assertReset again s).cfg = s.cfg := by
  cases again <;> rfl

/-- The only effects that touch the contexts, `buffer` and `frame`, replace one of them in place. -/
theorem Effect.parameters_eq {s t : State} (h : Effect s t) : t.cfg = s.cfg ∧ t.nSess = s.nSess := by
  cases h with
  | result v => exact ⟨rfl, rfl⟩
  | error e => exact ⟨rfl, rfl⟩
  | clear => exact ⟨rfl, rfl⟩
  | crc v => exact ⟨rfl, rfl⟩
  | encoder o r c bytes closed opened => exact ⟨rfl, rfl⟩
  | buffer ch buf inRange short grows => exact ⟨rfl, s.nSess_setCtx ch _⟩
  | frame ch f inRange whole => exact ⟨rfl, s.nSess_setCtx ch _⟩

/-- An accepted operation is the one case that needs `Effect.parameters_eq`: the port and the host's action, which are
used up before it, hold no parameter. -/
theorem StepEffect.parameters_eq {s t : State} (h : StepEffect s t) : t.cfg = s.cfg ∧ t.nSess = s.nSess := by
  cases h with
  | waits acts => exact ⟨rfl, rfl⟩
  | accepts w rest acts t offered free takes effect => exact effect.parameters_eq
  | takesTx more act => exact ⟨rfl, rfl⟩
  | takesSmp more act => exact ⟨rfl, rfl⟩
  | resets again more act => exact ⟨cfg_assertReset again s.popAct, nSess_assertReset again s.popAct⟩

/-- Settles O52, by the effects a step can have. -/
theorem parametersAreFixed : Obligations.ParametersAreFixed :=
  fun _ _ h => (effect_of_step h).parameters_eq

end Sys2Proof.Machine
end

section
/-! The status register (10_state.md R23). -/

namespace Sys2Proof.Machine

/-- A concatenation as a number: the high part counts in units of the low part's range. -/
theorem toNat_append_eq_add {m n : Nat} (x : BitVec m) (y : BitVec n) :
    (x ++ y).toNat = x.toNat * 2 ^ n + y.toNat := by
  rw [BitVec.toNat_append, ← Nat.shiftLeft_add_eq_or_of_lt y.isLt, Nat.shiftLeft_eq]

/-- Bit `i` of `STATUS`, by the field it lies in. -/
theorem State.getLsbD_status (s : State) (i : Nat) :
    s.status.getLsbD i =
      if i < 4 then s.sticky.getLsbD i
      else if i < 8 then false
      else if i < 16 then s.lastErr.getLsbD (i - 8)
      else if i < 17 then s.encOpen
      else false := by
  simp only [State.status, flag, BitVec.getLsbD_append, BitVec.getLsbD_ofBool, BitVec.getLsbD_zero]
  grind

/-- The sum of the fields at their weights. -/
theorem State.toNat_status (s : State) :
    s.status.toNat = s.sticky.toNat + 256 * s.lastErr.toNat + 65536 * s.encOpen.toNat := by
  simp only [State.status, flag, toNat_append_eq_add, BitVec.toNat_ofBool, BitVec.toNat_ofNat]
  omega

/-- `STATUS` reads 0 when no error is recorded and no frame is open (10_state.md R23). -/
theorem State.status_eq_zero {s : State} (hs : s.sticky = 0) (hl : s.lastErr = 0) (ho : s.encOpen = false) :
    s.status = 0 := by
  rw [State.status, hs, hl, ho]
  decide

/-- Settles O12: the fields bit by bit, and the register as the sum of its fields. -/
theorem statusFields : Obligations.StatusFields := by
  intro s
  refine ⟨?_, ?_, ?_, ?_, ?_, s.toNat_status⟩
  · ext i hi
    rw [BitVec.getElem_extractLsb', s.getLsbD_status, if_pos (by omega), Nat.zero_add, BitVec.getLsbD_eq_getElem]
  · ext i hi
    rw [BitVec.getElem_extractLsb', s.getLsbD_status, if_neg (by omega), if_pos (by omega)]
    simp
  · ext i hi
    rw [BitVec.getElem_extractLsb', s.getLsbD_status, if_neg (by omega), if_neg (by omega), if_pos (by omega),
      Nat.add_sub_cancel_left, BitVec.getLsbD_eq_getElem]
  · rw [s.getLsbD_status]
    rfl
  · ext i hi
    rw [BitVec.getElem_extractLsb', s.getLsbD_status, if_neg (by omega), if_neg (by omega), if_neg (by omega),
      if_neg (by omega)]
    simp

end Sys2Proof.Machine
end

section
/-! The invariant of the block after reset (10_state.md R33) and along a step. -/

namespace Sys2Proof.Machine

/-! ## What the invariant does not depend on -/

/-- The invariant does not speak of what the host offers or does. -/
theorem State.Inv.of_host {s : State} (h : s.Inv) (ops : List Word) (acts : List HostAct) :
    State.Inv { s with ops := ops, acts := acts } :=
  { h with }

/-! ## Reset (10_state.md R33) -/

theorem Session.legal_reset : Session.reset.Legal where
  buf := by decide
  drop := fun _ => rfl
  vc := by decide
  ic := by decide
  wc := by decide

/-- Reset makes every element it writes legal; left to ask are the parameters and the events the host already has. -/
theorem State.inv_resetBlock {s : State} (sessions : 1 ≤ s.nSess ∧ s.nSess ≤ 256) (config : s.cfg.legal = true)
    (taken : ∀ e ∈ s.smpTaken, e.Legal s.nSess) : s.resetBlock.Inv where
  sessions := by simpa using sessions
  config := config
  status := .inl ⟨rfl, rfl⟩
  encClosed := fun _ => rfl
  encOpened := nofun
  contexts := by simp [Session.legal_reset]
  events := by simpa using taken
  txDepth := fun _ _ => Nat.zero_le _
  smpDepth := fun _ _ => Nat.zero_le _

theorem inv_assertReset {s : State} (h : s.Inv) (again : Bool) : (assertReset again s).Inv := by
  have hr : s.resetBlock.Inv :=
    State.inv_resetBlock h.sessions h.config fun e he => h.events e (List.mem_append_left _ he)
  cases again with
  | true => exact hr
  | false => exact hr.of_host _ _

@[simp] theorem State.nSess_init (n : Nat) (c : Config) : (State.init n c).nSess = n :=
  List.length_replicate

/-- Every context of a machine after reset, and the value read at an index it does not have. -/
@[simp] theorem State.ctx_init (n : Nat) (c : Config) (ch : Byte) : (State.init n c).ctx ch = Session.reset := by
  simp only [State.ctx, State.init, List.getD_eq_getElem?_getD, List.getElem?_replicate]
  split <;> rfl

/-- Reset of a machine right after reset changes nothing. -/
theorem State.resetBlock_init (n : Nat) (c : Config) : (State.init n c).resetBlock = State.init n c := by
  simp [State.init, State.resetBlock]

/-- Settles O17: the elements are fields of `State.init`, and each context is `Session.reset`. -/
theorem resetValues : Obligations.ResetValues := by
  intro n c
  refine ⟨State.status_eq_zero rfl rfl rfl, rfl, rfl, rfl, rfl, rfl, rfl, State.nSess_init n c, rfl, rfl,
    fun ch => ?_⟩
  rw [State.ctx_init]
  exact ⟨rfl, rfl, rfl, rfl, rfl, rfl⟩

theorem State.inv_init {n : Nat} {c : Config} (sessions : 1 ≤ n ∧ n ≤ 256) (config : c.legal = true) :
    (State.init n c).Inv := by
  rw [← State.resetBlock_init]
  exact State.inv_resetBlock (by simpa using sessions) config nofun

/-- Settles O51: the machine after reset is a reset block, whose invariant asks for the parameters only. -/
theorem resetMeetsInvariant : Obligations.ResetMeetsInvariant :=
  ⟨fun _ _ h1 h256 hc => State.inv_init ⟨h1, h256⟩ hc, State.inv_init (by decide) (by decide)⟩

/-! ## The streams' capacities (20_memory.md R46) -/

theorem WithinDepth.mono {dep : Option Nat} {used used' : Nat} (h : WithinDepth dep used) (hle : used' ≤ used) :
    WithinDepth dep used' :=
  fun d hd => hle.trans (h d hd)

/-- Accepting a word that is not held keeps both streams within their capacities: a legal word emits at most the room
the port has checked, an illegal one nothing. -/
theorem accept_withinDepth {w : Word} {s t : State} (free : held w s = false) (takes : accept w s = .next t)
    (htx : WithinDepth s.cfg.txDepth s.tx.length) (hsmp : WithinDepth s.cfg.smpDepth s.smp.length) :
    WithinDepth s.cfg.txDepth t.tx.length ∧ WithinDepth s.cfg.smpDepth t.smp.length := by
  cases hd : decode w with
  | ok i =>
    have hroom : roomFor s.cfg.txDepth s.tx.length (txNeed i s) = true ∧
        roomFor s.cfg.smpDepth s.smp.length (smpNeed i s) = true := by
      simpa [held, hd, heldInstr] using free
    obtain ⟨hrtx, hrsmp⟩ := hroom
    rw [accept_of_ok s hd] at takes
    obtain ⟨hletx, hlesmp⟩ := exec_emits_le i s t takes
    exact ⟨(htx.add hrtx).mono hletx, (hsmp.add hrsmp).mono hlesmp⟩
  | illegal why =>
    rw [accept_of_illegal s hd] at takes
    cases takes
    exact ⟨htx, hsmp⟩

/-! ## The effects of an operation -/

/-- A field code has 48 bits (43_decoder.md R151, R152). -/
theorem le48_lt (f : List Byte) (o : Nat) : (le48 f o).toNat < 2 ^ 48 := by
  unfold le48
  rw [BitVec.toNat_setWidth_of_le (by decide)]
  exact BitVec.isLt _

/-- The context after a completed frame is legal, whatever context the frame completed in. -/
theorem Session.legal_complete (c : Session) (f : List Byte) : (c.complete f).Legal where
  buf := Nat.zero_le _
  drop := fun _ => rfl
  vc := le48_lt f OFF_V
  ic := le48_lt f OFF_I
  wc := le48_lt f OFF_W

/-- A buffer that grew by at most a byte and completed no frame is still a partial one (10_state.md R27). -/
theorem Session.Legal.withBuffer {c : Session} (h : c.Legal) {buf : List Byte} (short : buf.length ≠ 23)
    (grows : buf.length ≤ c.buf.length + 1) : Session.Legal { c with buf := buf, drop := false } where
  buf := by have := h.buf; show buf.length ≤ 22; omega
  drop := nofun
  vc := h.vc
  ic := h.ic
  wc := h.wc

/-- Contexts stay legal when one of them is replaced by a legal one. -/
theorem legal_of_mem_set {cs : List Session} (h : ∀ c ∈ cs, c.Legal) {k : Nat} {d : Session} (hd : d.Legal) :
    ∀ c ∈ cs.set k d, c.Legal := by
  intro c hc
  rcases List.mem_or_eq_of_mem_set hc with hc | rfl
  · exact h c hc
  · exact hd

/-- An error's sticky bit is set in the state after it (60_exceptions.md R192). -/
theorem State.raise_sticky_bit (s : State) (e : ErrCode) : (s.raise e).sticky &&& e.bit = e.bit := by
  rw [State.raise_sticky]
  grind

/-- An operation's effect keeps the invariant when the streams stay within their capacities. Only a clear or an error
touches the status, only the encoder's effect the encoder, and only `buffer` and `frame` a context; `frame` also emits
an event. -/
theorem Effect.keeps_inv {s t : State} (h : s.Inv) (e : Effect s t) (htx : WithinDepth t.cfg.txDepth t.tx.length)
    (hsmp : WithinDepth t.cfg.smpDepth t.smp.length) : t.Inv := by
  cases e with
  | result v => exact { h with txDepth := htx, smpDepth := hsmp }
  | error e => exact { h with status := .inr ⟨e, rfl, s.raise_sticky_bit e⟩, txDepth := htx, smpDepth := hsmp }
  | clear => exact { h with status := .inl ⟨rfl, rfl⟩, txDepth := htx, smpDepth := hsmp }
  | crc v => exact { h with txDepth := htx, smpDepth := hsmp }
  | encoder o r c bytes closed opened =>
    exact { h with encClosed := closed, encOpened := opened, txDepth := htx, smpDepth := hsmp }
  | buffer ch buf inRange short grows =>
    have hc : Session.Legal { s.ctx ch with buf := buf, drop := false } :=
      (h.contexts _ (s.ctx_mem inRange)).withBuffer short grows
    exact
      { h with
        sessions := by simpa using h.sessions
        contexts := legal_of_mem_set h.contexts hc
        events := by simpa using h.events
        txDepth := htx
        smpDepth := hsmp }
  | frame ch f inRange whole =>
    have he : (sampleEvent ch f).Legal s.nSess := ⟨inRange, whole, rfl⟩
    exact
      { h with
        sessions := by simpa using h.sessions
        contexts := legal_of_mem_set h.contexts (Session.legal_complete _ f)
        events := by
          have hall : ∀ e ∈ (s.smpTaken ++ s.smp) ++ [sampleEvent ch f], e.Legal s.nSess :=
            List.forall_mem_append.mpr ⟨h.events, List.forall_mem_singleton.mpr he⟩
          simpa using hall
        txDepth := htx
        smpDepth := hsmp }

/-! ## The effects of a step -/

theorem State.Inv.takeTx {s : State} (h : s.Inv) : s.takeTx.Inv :=
  { h with txDepth := h.txDepth.mono (by simp) }

/-- An event taken moves from SMP to what the host has taken; the events emitted stay the same. -/
theorem State.Inv.takeSmp {s : State} (h : s.Inv) : s.takeSmp.Inv :=
  { h with
    events := by
      have hmove : s.takeSmp.smpTaken ++ s.takeSmp.smp = s.smpTaken ++ s.smp := by
        rw [State.takeSmp_smpTaken, State.takeSmp_smp, List.append_assoc, List.take_append_drop]
      rw [hmove]
      exact h.events
    smpDepth := h.smpDepth.mono (by simp) }

theorem StepEffect.keeps_inv {s t : State} (h : s.Inv) (e : StepEffect s t) : t.Inv := by
  cases e with
  | waits acts => exact h.of_host _ _
  | accepts w rest acts t offered free takes effect =>
    have hoffer : State.Inv { s with ops := rest, acts := acts } := h.of_host rest acts
    rw [← held_of_host w s rest acts] at free
    obtain ⟨htx, hsmp⟩ := accept_withinDepth free takes hoffer.txDepth hoffer.smpDepth
    rw [← effect.parameters_eq.1] at htx hsmp
    exact effect.keeps_inv hoffer htx hsmp
  | takesTx more act => exact (h.of_host s.ops _).takeTx
  | takesSmp more act => exact (h.of_host s.ops _).takeSmp
  | resets again more act => exact inv_assertReset (h.of_host s.ops _) again

/-- Settles O50, by the effects a step can have. -/
theorem stepKeepsInvariant : Obligations.StepKeepsInvariant :=
  fun _ _ h hs => (effect_of_step hs).keeps_inv h

end Sys2Proof.Machine
end

section
/-! The operations' effects with the operations that have them: which unit an operation belongs to bounds what it can
change (10_state.md R22, R24, R25, R26, R30). -/

namespace Sys2Proof.Machine

/-! ## What each operation can do -/

/-- The effects of operation `i` in state `s`: coarser than `Effect` in the values written, finer in which operations
write them. -/
inductive OpEffect (i : Instr) (s : State) : State → Prop where
  /-- only a result, which is 0 unless a read operation returns it -/
  | result (v : Res) (zero : isRead i = false → v = 0) : OpEffect i s (s.ret v)
  /-- an error (60_exceptions.md R192) -/
  | error (e : ErrCode) : OpEffect i s (s.raise e)
  | clear (op : i = .sysClrstat) : OpEffect i s (s.clearErrors.ret 0)
  | crc (v : Byte) (op : i = .crcClr ∨ ∃ b, i = .crcByte b) : OpEffect i s ((s.setCrc v).ret 0)
  | encoder (o : Bool) (r : BitVec 16) (c : Byte) (tx : List Byte) (op : isEnc i = true) (write : isRead i = false) :
      OpEffect i s { s with encOpen := o, encRem := r, encCrc := c, tx := tx, results := s.results ++ [0] }
  | discard (ch : Byte) (op : i = .rsmClr ch) (inRange : ch.toNat < s.nSess) :
      OpEffect i s ((s.setCtx ch { s.ctx ch with buf := [], drop := false }).ret 0)
  /-- a byte pushed: the context of its session is replaced, and SMP may have an event more -/
  | push (ch b : Byte) (c : Session) (smp : List SampleEvent) (op : i = .rsmFirst ch b ∨ i = .rsmNext ch b) :
      OpEffect i s ({ s.setCtx ch c with smp := smp }.ret 0)

/-- A push writes the context of its session and SMP, and nothing else (42_reassembler.md R133). -/
theorem rsmPush_eq_setCtx (ch : Byte) (c : Session) (b : Byte) (s : State) :
    ∃ c' smp, rsmPush ch c b s = { s.setCtx ch c' with smp := smp } := by
  by_cases h : c.buf.length = 22
  · exact ⟨_, _, rsmPush_completes ch c b s h⟩
  · exact ⟨_, _, rsmPush_appends ch c b s h⟩

theorem opEffect_of_push {i : Instr} {ch b : Byte} (op : i = .rsmFirst ch b ∨ i = .rsmNext ch b) (c : Session)
    (s : State) : OpEffect i s ((rsmPush ch c b s).ret 0) := by
  obtain ⟨c', smp, h⟩ := rsmPush_eq_setCtx ch c b s
  rw [h]
  exact .push ch b c' smp op

/-- An operation on a session has the effect of its body, or is `E_BADCH`. -/
theorem opEffect_of_session {i : Instr} {ch : Byte} {s : State} {k : Session → State}
    (body : ch.toNat < s.nSess → OpEffect i s (k (s.ctx ch))) :
    ∃ t, withSession ch s k = .next t ∧ OpEffect i s t := by
  by_cases h : ch.toNat < s.nSess
  · exact ⟨_, withSession_of_lt k h, body h⟩
  · exact ⟨_, withSession_of_ge k (Nat.le_of_not_lt h), .error _⟩

theorem opEffect_of_sessionRead {i : Instr} (read : isRead i = true) (ch : Byte) (s : State) (v : Session → Res) :
    ∃ t, withSession ch s (fun c => s.ret (v c)) = .next t ∧ OpEffect i s t :=
  opEffect_of_session fun _ => .result _ (by simp [read])

/-- An encoder operation that has written the encoder and TX, and returns 0. -/
theorem opEffect_of_encoder {i : Instr} {s t : State} (op : isEnc i = true) (write : isRead i = false)
    (frame : t = { s with encOpen := t.encOpen, encRem := t.encRem, encCrc := t.encCrc, tx := t.tx }) :
    OpEffect i s (t.ret 0) := by
  rw [frame]
  exact .encoder t.encOpen t.encRem t.encCrc t.tx op write

theorem opEffect_of_encHdr (len : BitVec 16) (s : State) :
    ∃ t, execEncHdr len s = .next t ∧ OpEffect (.encHdr len) s t := by
  unfold execEncHdr
  split
  · exact ⟨_, rfl, .error _⟩
  · dsimp only
    split
    · exact ⟨_, rfl, opEffect_of_encoder rfl rfl rfl⟩
    · exact ⟨_, rfl, opEffect_of_encoder rfl rfl rfl⟩

theorem opEffect_of_encByte (b : Byte) (s : State) :
    ∃ t, execEncByte b s = .next t ∧ OpEffect (.encByte b) s t := by
  unfold execEncByte
  split
  · dsimp only
    split
    · exact ⟨_, rfl, opEffect_of_encoder rfl rfl rfl⟩
    · exact ⟨_, rfl, opEffect_of_encoder rfl rfl rfl⟩
  · exact ⟨_, rfl, .error _⟩

theorem opEffect_of_rsmFirst (ch b : Byte) (s : State) :
    ∃ t, execRsmFirst ch b s = .next t ∧ OpEffect (.rsmFirst ch b) s t := by
  refine opEffect_of_session fun _ => ?_
  exact opEffect_of_push (.inl rfl) _ s

theorem opEffect_of_rsmNext (ch b : Byte) (s : State) :
    ∃ t, execRsmNext ch b s = .next t ∧ OpEffect (.rsmNext ch b) s t := by
  refine opEffect_of_session fun _ => ?_
  cases (s.ctx ch).drop with
  | false => exact opEffect_of_push (.inr rfl) (s.ctx ch) s
  | true => exact .result 0 fun _ => rfl

theorem opEffect_of_rsmClr (ch : Byte) (s : State) :
    ∃ t, execRsmClr ch s = .next t ∧ OpEffect (.rsmClr ch) s t :=
  opEffect_of_session fun h => .discard ch rfl h

/-- Every operation answers a next state, by one of its effects. -/
theorem exec_opEffect (i : Instr) (s : State) : ∃ t, exec i s = .next t ∧ OpEffect i s t := by
  cases i with
  | sysNop => exact ⟨_, rfl, .result 0 fun _ => rfl⟩
  | sysRdstat | crcRd | encRd => exact ⟨_, rfl, .result _ nofun⟩
  | sysClrstat => exact ⟨_, rfl, .clear rfl⟩
  | crcClr => exact ⟨_, rfl, .crc _ (.inl rfl)⟩
  | crcByte b => exact ⟨_, rfl, .crc _ (.inr ⟨b, rfl⟩)⟩
  | encHdr len => exact opEffect_of_encHdr len s
  | encByte b => exact opEffect_of_encByte b s
  | encAbort => exact ⟨_, rfl, .encoder false 0 0 s.tx rfl rfl⟩
  | rsmFirst ch b => exact opEffect_of_rsmFirst ch b s
  | rsmNext ch b => exact opEffect_of_rsmNext ch b s
  | rsmClr ch => exact opEffect_of_rsmClr ch s
  | rsmRd ch | rsmRdbuf ch | decRdvc ch | decRdic ch | decRdwc ch | decRdvf ch | decRdif ch
  | decRdwf ch | decRdcnt ch =>
    simp only [exec, execRsmRd, execRsmRdbuf, execDecRdvc, execDecRdic, execDecRdwc, execDecRdvf, execDecRdif,
      execDecRdwf, execDecRdcnt]
    exact opEffect_of_sessionRead rfl ch s _

/-- The inversion of `exec_opEffect`. -/
theorem opEffect_of_exec {i : Instr} {s t : State} (h : exec i s = .next t) : OpEffect i s t := by
  obtain ⟨u, hu, he⟩ := exec_opEffect i s
  rw [hu] at h
  cases h
  exact he

/-! ## Results (10_state.md R22) -/

theorem OpEffect.one_result {i : Instr} {s t : State} (h : OpEffect i s t) :
    ∃ v : Res, t.results = s.results ++ [v] ∧ (isRead i = false → v = 0) := by
  cases h with
  | result v zero => exact ⟨v, rfl, zero⟩
  | error | clear | crc | encoder | discard | push => exact ⟨0, rfl, fun _ => rfl⟩

/-- Settles O8: an illegal word and a session the block does not have are errors, whose result is 0; any other word has
the one result of its operation. -/
theorem oneResultPerOperation : Obligations.OneResultPerOperation := by
  intro w s
  cases hd : decode w with
  | illegal why => exact ⟨_, 0, accept_of_illegal s hd, rfl, fun _ => rfl, fun _ _ _ _ _ => rfl⟩
  | ok i =>
    rw [accept_of_ok s hd]
    by_cases hbad : ∃ ch, i.session? = some ch ∧ s.nSess ≤ ch.toNat
    · obtain ⟨ch, hch, hge⟩ := hbad
      exact ⟨_, 0, exec_badCh hch hge, rfl, fun _ => rfl, fun _ _ _ _ _ => rfl⟩
    · obtain ⟨t, ht, he⟩ := exec_opEffect i s
      obtain ⟨v, hv, hzero⟩ := he.one_result
      refine ⟨t, v, ht, hv, fun hread => hzero (hread i rfl), fun j ch hj hch hge => ?_⟩
      cases hj
      exact absurd ⟨ch, hch, hge⟩ hbad

/-! ## Errors (10_state.md R24) -/

/-- A legal word is `match` of a row of R63 under the row's mask, and its operation is what the row builds. -/
theorem row_of_decode_ok {w : Word} {i : Instr} (h : decode w = .ok i) :
    ∃ r ∈ opcodeTable, w &&& r.mask = r.pat ∧ r.build w = i := by
  unfold decode at h
  split at h
  · cases h
  · rename_i r hr
    split at h
    · rename_i hmatch
      exact ⟨r, List.mem_of_find?_eq_some hr, hmatch, Decoded.ok.inj h⟩
    · cases h

/-- `SYS.CLRSTAT` has one word: its row is the only one that builds it, and the row's mask leaves no bit free. -/
theorem word_of_decode_sysClrstat {w : Word} (h : decode w = .ok .sysClrstat) : w = 0x02000000#32 := by
  obtain ⟨r, hr, hmatch, hbuild⟩ := row_of_decode_ok h
  have hrow : ∀ r ∈ opcodeTable, r.build w = .sysClrstat → r.mask = 0xFFFFFFFF#32 ∧ r.pat = 0x02000000#32 := by
    simp [opcodeTable, sysRows, crcRows, encRows, rsmRows, decRows]
  obtain ⟨hmask, hpat⟩ := hrow r hr hbuild
  rw [hmask, hpat] at hmatch
  exact BitVec.and_allOnes.symm.trans hmatch

/-- Over one operation the error fields stay, or one error sets its bit, or `SYS.CLRSTAT` clears them. -/
theorem OpEffect.error_fields {i : Instr} {s t : State} (h : OpEffect i s t) :
    (t.sticky = s.sticky ∧ t.lastErr = s.lastErr) ∨
    (∃ e : ErrCode, t = s.raise e) ∨ (i = .sysClrstat ∧ t = s.clearErrors.ret 0) := by
  cases h with
  | error e => exact .inr (.inl ⟨e, rfl⟩)
  | clear op => exact .inr (.inr ⟨op, rfl⟩)
  | result | crc | encoder | discard | push => exact .inl ⟨rfl, rfl⟩

/-- Settles O11: only an accepted word and reset touch the error fields; an illegal word is an error, a legal one has
the effect of its operation. -/
theorem errorBitsAccumulate : Obligations.ErrorBitsAccumulate := by
  intro s t h
  cases effect_of_step h with
  | waits | takesTx | takesSmp => exact .inl ⟨rfl, rfl⟩
  | resets again more act => exact .inr (.inr (.inr (by cases again <;> simp [assertReset, act])))
  | accepts w rest acts t offered free takes effect =>
    cases hd : decode w with
    | illegal why =>
      rw [accept_of_illegal _ hd] at takes
      cases takes
      exact .inr (.inl ⟨.illegal, rfl, rfl, rfl⟩)
    | ok i =>
      rw [accept_of_ok _ hd] at takes
      rcases (opEffect_of_exec takes).error_fields with hsame | ⟨e, rfl⟩ | ⟨rfl, rfl⟩
      · exact .inl hsame
      · exact .inr (.inl ⟨e, rfl, rfl, rfl⟩)
      · have hhead : s.ops.head? = some 0x02000000#32 := by
          rw [offered, word_of_decode_sysClrstat hd]
          rfl
        exact .inr (.inr (.inl ⟨rfl, rfl, hhead, rfl⟩))

/-! ## Frames (10_state.md R25, R26, R27, R29; 92_eei_decisions.md D10) -/

section
variable {i : Instr} {s t : State}

theorem OpEffect.host_eq (h : OpEffect i s t) :
    t.cfg = s.cfg ∧ t.ops = s.ops ∧ t.acts = s.acts ∧ t.txTaken = s.txTaken ∧ t.smpTaken = s.smpTaken := by
  cases h <;> exact ⟨rfl, rfl, rfl, rfl, rfl⟩

theorem OpEffect.crcReg_eq (h : OpEffect i s t) (hclr : i ≠ .crcClr) (hbyte : ∀ b, i ≠ .crcByte b) :
    t.crcReg = s.crcReg := by
  cases h with
  | crc v op =>
    obtain op | ⟨b, op⟩ := op
    · exact absurd op hclr
    · exact absurd op (hbyte b)
  | result | error | clear | encoder | discard | push => rfl

theorem OpEffect.encoder_eq (h : OpEffect i s t) (he : isEnc i = false) :
    t.encOpen = s.encOpen ∧ t.encRem = s.encRem ∧ t.encCrc = s.encCrc ∧ t.tx = s.tx := by
  cases h with
  | encoder o r c tx op => simp [he] at op
  | result | error | clear | crc | discard | push => exact ⟨rfl, rfl, rfl, rfl⟩

theorem OpEffect.sessions_eq (h : OpEffect i s t) (hs : i.session? = none) : t.sess = s.sess ∧ t.smp = s.smp := by
  cases h with
  | discard ch op => simp [op, Instr.session?] at hs
  | push ch b c smp op => rcases op with rfl | rfl <;> cases hs
  | result | error | clear | crc | encoder => exact ⟨rfl, rfl⟩

/-- Only a byte pushed can complete a frame, which is what writes SMP and the decoder registers. -/
theorem OpEffect.decoder_eq (h : OpEffect i s t) (hp : ∀ ch b, i ≠ .rsmFirst ch b ∧ i ≠ .rsmNext ch b) :
    t.smp = s.smp ∧ ∀ k : Byte, (t.ctx k).vc = (s.ctx k).vc ∧ (t.ctx k).ic = (s.ctx k).ic ∧
      (t.ctx k).wc = (s.ctx k).wc ∧ (t.ctx k).cnt = (s.ctx k).cnt := by
  cases h with
  | push ch b c smp op =>
    rcases op with op | op
    · exact absurd op (hp ch b).1
    · exact absurd op (hp ch b).2
  | discard ch op inRange =>
    refine ⟨rfl, fun k => ?_⟩
    rw [State.ctx_ret]
    by_cases hk : k = ch
    · rw [hk, s.ctx_setCtx_self ch _ inRange]
      exact ⟨rfl, rfl, rfl, rfl⟩
    · rw [s.ctx_setCtx_ne _ hk]
      exact ⟨rfl, rfl, rfl, rfl⟩
  | result | error | clear | crc | encoder => exact ⟨rfl, fun _ => ⟨rfl, rfl, rfl, rfl⟩⟩

/-- A read operation and `SYS.NOP` have only a result, or an error. -/
theorem OpEffect.result_or_error (h : OpEffect i s t) (hr : isRead i = true ∨ i = .sysNop) :
    (∃ v, t = s.ret v) ∨ ∃ e, t = s.raise e := by
  cases h with
  | result v => exact .inl ⟨v, rfl⟩
  | error e => exact .inr ⟨e, rfl⟩
  | clear op => subst op; simp [isRead] at hr
  | crc v op => rcases op with rfl | ⟨b, rfl⟩ <;> simp [isRead] at hr
  | encoder o r c tx op write =>
    rcases hr with hr | rfl
    · rw [hr] at write; cases write
    · cases op
  | discard ch op => subst op; simp [isRead] at hr
  | push ch b c smp op => rcases op with rfl | rfl <;> simp [isRead] at hr

end

/-- Settles O55, by the frame of each unit. -/
theorem unitsTouchOnlyTheirState : Obligations.UnitsTouchOnlyTheirState := by
  intro i s t h
  have he := opEffect_of_exec h
  refine ⟨he.host_eq, he.crcReg_eq, he.encoder_eq, he.sessions_eq, he.decoder_eq, fun hr => ?_⟩
  rcases he.result_or_error hr with ⟨v, rfl⟩ | ⟨e, rfl⟩ <;> exact ⟨rfl, rfl, rfl, rfl, rfl, rfl, rfl⟩

/-! ## Isolation of the sessions (10_state.md R30) -/

/-- An operation writes no context but that of its session. -/
theorem OpEffect.ctx_eq {i : Instr} {s t : State} {k : Byte} (h : OpEffect i s t) (hk : i.session? ≠ some k) :
    t.ctx k = s.ctx k := by
  cases h with
  | discard ch op =>
    have hne : k ≠ ch := by rintro rfl; exact hk (by rw [op]; rfl)
    exact s.ctx_setCtx_ne _ hne
  | push ch b c smp op =>
    have hne : k ≠ ch := by rintro rfl; rcases op with rfl | rfl <;> exact hk rfl
    exact s.ctx_setCtx_ne c hne
  | result | error | clear | crc | encoder => rfl

/-- Two contexts of different sessions can be replaced in either order. -/
theorem State.setCtx_comm (s : State) {ch k : Byte} (c d : Session) (h : k ≠ ch) :
    (s.setCtx k d).setCtx ch c = (s.setCtx ch c).setCtx k d := by
  have h' : k.toNat ≠ ch.toNat := fun e => h (BitVec.eq_of_toNat_eq e)
  simp only [State.setCtx, List.set_comm _ _ h']

theorem rsmPush_setCtx {ch k : Byte} (h : k ≠ ch) (c d : Session) (b : Byte) (s : State) :
    rsmPush ch c b (s.setCtx k d) = (rsmPush ch c b s).setCtx k d := by
  by_cases hl : c.buf.length = 22
  · rw [rsmPush_completes _ _ _ _ hl, rsmPush_completes _ _ _ _ hl, State.setCtx_comm _ _ _ h]; rfl
  · rw [rsmPush_appends _ _ _ _ hl, rsmPush_appends _ _ _ _ hl, State.setCtx_comm _ _ _ h]

/-- The session operand selects the same context when another one is replaced. -/
theorem withSession_setCtx {ch k : Byte} (h : k ≠ ch) (s : State) (d : Session) (f f' : Session → State)
    (hf : ∀ c, f' c = (f c).setCtx k d) :
    withSession ch (s.setCtx k d) f' = mapNext (State.setCtx k d) (withSession ch s f) := by
  by_cases hs : ch.toNat < s.nSess
  · rw [withSession_of_lt f hs, withSession_of_lt f' (by simpa using hs), s.ctx_setCtx_ne d h.symm, hf]; rfl
  · have hg := Nat.le_of_not_lt hs
    rw [withSession_of_ge f hg, withSession_of_ge f' (by simpa using hg)]; rfl

/-- An operation that does not name session `k` does the same whatever context `k` holds, and leaves it there. -/
theorem exec_setCtx {i : Instr} {k : Byte} (h : i.session? ≠ some k) (s : State) (d : Session) :
    exec i (s.setCtx k d) = mapNext (State.setCtx k d) (exec i s) := by
  cases i with
  | sysNop | sysRdstat | sysClrstat | crcClr | crcByte | crcRd | encAbort | encRd => rfl
  | encHdr len =>
    simp only [exec, execEncHdr, State.setCtx_encOpen, apply_ite (mapNext (State.setCtx k d))]
    rfl
  | encByte b =>
    simp only [exec, execEncByte, State.setCtx_encOpen, State.setCtx_encRem, apply_ite (mapNext (State.setCtx k d))]
    rfl
  | rsmFirst ch b =>
    have hne : k ≠ ch := fun e => h (by rw [e]; rfl)
    simp only [exec, execRsmFirst]
    exact withSession_setCtx hne s d _ _ fun c => congrArg (State.ret 0) (rsmPush_setCtx hne _ d b s)
  | rsmNext ch b =>
    have hne : k ≠ ch := fun e => h (by rw [e]; rfl)
    simp only [exec, execRsmNext]
    refine withSession_setCtx hne s d _ _ fun c => ?_
    cases c.drop with
    | false => exact congrArg (State.ret 0) (rsmPush_setCtx hne c d b s)
    | true => rfl
  | rsmClr ch =>
    have hne : k ≠ ch := fun e => h (by rw [e]; rfl)
    simp only [exec, execRsmClr]
    exact withSession_setCtx hne s d _ _ fun c => congrArg (State.ret 0) (s.setCtx_comm _ d hne)
  | rsmRd ch | rsmRdbuf ch | decRdvc ch | decRdic ch | decRdwc ch | decRdvf ch | decRdif ch
  | decRdwf ch | decRdcnt ch =>
    have hne : k ≠ ch := fun e => h (by rw [e]; rfl)
    simp only [exec, execRsmRd, execRsmRdbuf, execDecRdvc, execDecRdic, execDecRdwc, execDecRdvf, execDecRdif,
      execDecRdwf, execDecRdcnt]
    exact withSession_setCtx hne s d _ _ fun c => rfl

/-- Settles O53: the effects of an operation write no other context, and it commutes with replacing one. -/
theorem sessionsAreIsolated : Obligations.SessionsAreIsolated :=
  ⟨fun _ _ _ _ hk h => (opEffect_of_exec h).ctx_eq hk, fun _ s _ c hk => exec_setCtx hk s c⟩

end Sys2Proof.Machine
end

section
/-! The operation port (20_memory.md R43, R46): what a step does with the offered word, when a word is held, and a run
over the words of a list of operations. -/

namespace Sys2Proof.Machine

/-! ## A step in which the port moves -/

section
variable {s : State} {more : List HostAct} (moves : s.acts = [] ∧ more = [] ∨ s.acts = .operate :: more)
include moves

/-- The port moves in two host states, one of them the empty action list (log entry 3). -/
theorem step_eq_operate : step s = operate { s with acts := more } := by
  rcases moves with ⟨h, rfl⟩ | h
  · have hs : { s with acts := [] } = s := by rw [← h]
    simp only [step, portStep, h, hs]
  · simp only [step, portStep, State.popAct, h, List.drop_succ_cons, List.drop_zero]

theorem step_idle (idle : s.ops = []) : step s = .next { s with acts := more } := by
  rw [step_eq_operate moves]
  exact operate_idle idle

theorem step_eq_ite {w : Word} {rest : List Word} (offered : s.ops = w :: rest) :
    step s = if held w s then .next { s with acts := more } else accept w { s with ops := rest, acts := more } := by
  rw [step_eq_operate moves, operate_offered (s := { s with acts := more }) offered, held_of_host w s s.ops more]

theorem step_held {w : Word} {rest : List Word} (offered : s.ops = w :: rest) (hold : held w s = true) :
    step s = .next { s with acts := more } := by
  rw [step_eq_ite moves offered, if_pos hold]

theorem step_accepts {w : Word} {rest : List Word} (offered : s.ops = w :: rest) (free : held w s = false) :
    step s = accept w { s with ops := rest, acts := more } := by
  rw [step_eq_ite moves offered, if_neg (by simp [free])]

end

/-- An illegal word emits nothing and is never held (60_exceptions.md R192). -/
theorem held_of_illegal {w : Word} {why : Illegal} (s : State) (h : decode w = .illegal why) : held w s = false := by
  simp only [held, h]

/-- Settles O6: the port is idle, holds the word, or accepts it. -/
theorem stepRunsOfferedWord : Obligations.StepRunsOfferedWord := by
  intro s more moves
  refine ⟨step_idle moves, fun w rest offered =>
    ⟨step_held moves offered, fun i free legal => ?_, fun why illegal => ?_⟩⟩
  · rw [step_accepts moves offered free, accept_of_ok _ legal]
  · rw [step_accepts moves offered (held_of_illegal s illegal), accept_of_illegal _ illegal]
    rfl

/-! ## When the port holds an operation (R46) -/

theorem roomFor_eq_false_iff {dep : Option Nat} {used need : Nat} :
    roomFor dep used need = false ↔ ∃ d, dep = some d ∧ 0 < need ∧ d < used + need := by
  cases dep with
  | none => simp [roomFor]
  | some d => simp [roomFor, Nat.pos_iff_ne_zero]

theorem heldInstr_iff (i : Instr) (s : State) :
    heldInstr i s = true ↔
      (∃ d, s.cfg.txDepth = some d ∧ 0 < txNeed i s ∧ d < s.tx.length + txNeed i s) ∨
      (∃ d, s.cfg.smpDepth = some d ∧ 0 < smpNeed i s ∧ d < s.smp.length + smpNeed i s) := by
  simp only [heldInstr, Bool.not_eq_true', Bool.and_eq_false_iff, roomFor_eq_false_iff]

theorem heldInstr_unbounded (i : Instr) {s : State} (tx : s.cfg.txDepth = none) (smp : s.cfg.smpDepth = none) :
    heldInstr i s = false := by
  simp only [heldInstr, roomFor, tx, smp]
  rfl

theorem txNeed_eq_zero {i : Instr} (s : State) (hhdr : ∀ len, i ≠ .encHdr len) (hbyte : ∀ b, i ≠ .encByte b) :
    txNeed i s = 0 := by
  cases i with
  | encHdr len => exact absurd rfl (hhdr len)
  | encByte b => exact absurd rfl (hbyte b)
  | _ => rfl

theorem smpNeed_eq_zero {i : Instr} (s : State) (hpush : ∀ ch b, i ≠ .rsmFirst ch b ∧ i ≠ .rsmNext ch b) :
    smpNeed i s = 0 := by
  cases i with
  | rsmFirst ch b => exact absurd rfl (hpush ch b).1
  | rsmNext ch b => exact absurd rfl (hpush ch b).2
  | _ => rfl

theorem Effect.tx_append {s t : State} (h : Effect s t) : ∃ new, t.tx = s.tx ++ new := by
  cases h with
  | encoder o r c bytes => exact ⟨bytes, rfl⟩
  | result | error | clear | crc | buffer | frame => exact ⟨[], (List.append_nil _).symm⟩

theorem Effect.smp_append {s t : State} (h : Effect s t) : ∃ new, t.smp = s.smp ++ new := by
  cases h with
  | frame ch f => exact ⟨[sampleEvent ch f], rfl⟩
  | result | error | clear | crc | encoder | buffer => exact ⟨[], (List.append_nil _).symm⟩

theorem Effect.tx_length_le {s t : State} (h : Effect s t) : s.tx.length ≤ t.tx.length := by
  obtain ⟨new, hnew⟩ := h.tx_append
  simp [hnew]

theorem Effect.smp_length_le {s t : State} (h : Effect s t) : s.smp.length ≤ t.smp.length := by
  obtain ⟨new, hnew⟩ := h.smp_append
  simp [hnew]

/-- The bytes of an `ENC.HDR` that is no error: the header, and the CRC byte of an empty payload
(41_encoder.md R112). -/
theorem encHdr_emits {len : BitVec 16} {s t : State} (idle : s.encOpen = false)
    (h : exec (.encHdr len) s = .next t) : t.tx.length = s.tx.length + if len = 0 then 4 else 3 := by
  simp only [exec, execEncHdr, idle, Bool.false_eq_true, if_false] at h
  split at h
  · next empty => cases h; simp [empty]
  · next more => cases h; rw [if_neg more]; simp

/-- The bytes of an `ENC.BYTE` that is no error: the byte, and the CRC byte after the last one (41_encoder.md R113). -/
theorem encByte_emits {b : Byte} {s t : State} (opened : s.encOpen = true)
    (h : exec (.encByte b) s = .next t) : t.tx.length = s.tx.length + if s.encRem = 1 then 2 else 1 := by
  have last : s.encRem - 1 = 0 ↔ s.encRem = 1 := sub_eq_zero
  simp only [exec, execEncByte, opened, if_true, last] at h
  split at h
  · next one => cases h; simp [one]
  · next more => cases h; rw [if_neg more]; simp

/-- A push emits an event exactly when its byte is the 23rd of the buffer (42_reassembler.md R133). -/
theorem rsmPush_smp_length (ch : Byte) (c : Session) (b : Byte) (s : State) :
    (rsmPush ch c b s).smp.length = s.smp.length + if c.buf.length + 1 = FRAME_LEN then 1 else 0 := by
  by_cases h : c.buf.length = 22
  · simp [rsmPush_completes ch c b s h, h]
  · have hlen : c.buf.length + 1 ≠ FRAME_LEN := by simpa [FRAME_LEN] using h
    simp [rsmPush_appends ch c b s h, if_neg hlen]

/-- The events of a session operation whose need is that of `pushNeed`. -/
theorem withSession_smp_length {ch : Byte} {s t : State} {k : Session → State} {completes : Session → Bool}
    (exactRule : s.cfg.worstCaseHold = false)
    (hk : ∀ c, (k c).smp.length = s.smp.length + if completes c then 1 else 0)
    (h : withSession ch s k = .next t) : t.smp.length = s.smp.length + pushNeed ch s completes := by
  by_cases hs : ch.toNat < s.nSess
  · rw [withSession_of_lt k hs] at h
    cases h
    simp [pushNeed, hs, exactRule, hk]
  · rw [withSession_of_ge k (Nat.le_of_not_lt hs)] at h
    cases h
    simp [pushNeed, hs]

/-- Under the exact rule the room the port waits for on TX is what the operation emits there. -/
theorem exec_tx_length {i : Instr} {s t : State} (exactRule : s.cfg.worstCaseHold = false) (h : exec i s = .next t) :
    t.tx.length = s.tx.length + txNeed i s := by
  have hle := (exec_emits_le i s t h).1
  have hge := (effect_of_exec h).tx_length_le
  cases i with
  | encHdr len =>
    cases ho : s.encOpen with
    | false => simpa [txNeed, encHdrNeed, ho, exactRule] using encHdr_emits ho h
    | true =>
      have hneed : txNeed (.encHdr len) s = 0 := if_pos ho
      omega
  | encByte b =>
    cases ho : s.encOpen with
    | false =>
      have hneed : txNeed (.encByte b) s = 0 := if_neg (by simp [ho])
      omega
    | true => simpa [txNeed, encByteNeed, ho, exactRule] using encByte_emits ho h
  | _ => exact Nat.le_antisymm hle hge

/-- Under the exact rule the room the port waits for on SMP is what the operation emits there. -/
theorem exec_smp_length {i : Instr} {s t : State} (exactRule : s.cfg.worstCaseHold = false) (h : exec i s = .next t) :
    t.smp.length = s.smp.length + smpNeed i s := by
  have hle := (exec_emits_le i s t h).2
  have hge := (effect_of_exec h).smp_length_le
  cases i with
  | rsmFirst ch b =>
    simp only [exec, execRsmFirst] at h
    exact withSession_smp_length exactRule (fun c => by simp [rsmPush_smp_length, firstCompletes]) h
  | rsmNext ch b =>
    simp only [exec, execRsmNext] at h
    refine withSession_smp_length exactRule (fun c => ?_) h
    cases hd : c.drop <;> simp [rsmPush_smp_length, nextCompletes, hd]
  | _ => exact Nat.le_antisymm hle hge

theorem heldInstr_iff_overflow {i : Instr} {s t : State} (exactRule : s.cfg.worstCaseHold = false)
    (h : exec i s = .next t) :
    heldInstr i s = true ↔
      (∃ d, s.cfg.txDepth = some d ∧ s.tx.length < t.tx.length ∧ d < t.tx.length) ∨
      (∃ d, s.cfg.smpDepth = some d ∧ s.smp.length < t.smp.length ∧ d < t.smp.length) := by
  simp only [heldInstr_iff, exec_tx_length exactRule h, exec_smp_length exactRule h, Nat.lt_add_right_iff_pos]

theorem heldInstr_iff_worstCase (i : Instr) {s : State} (worst : s.cfg.worstCaseHold = true) :
    heldInstr i s = true ↔
      (∃ d len, i = .encHdr len ∧ s.encOpen = false ∧ s.cfg.txDepth = some d ∧ d < s.tx.length + 4) ∨
      (∃ d b, i = .encByte b ∧ s.encOpen = true ∧ s.cfg.txDepth = some d ∧ d < s.tx.length + 2) ∨
      (∃ d ch b, (i = .rsmFirst ch b ∨ i = .rsmNext ch b) ∧ ch.toNat < s.nSess ∧
        s.cfg.smpDepth = some d ∧ d < s.smp.length + 1) := by
  rw [heldInstr_iff]
  cases i with
  | encHdr len => cases ho : s.encOpen <;> simp [txNeed, smpNeed, encHdrNeed, ho, worst]
  | encByte b => cases ho : s.encOpen <;> simp [txNeed, smpNeed, encByteNeed, ho, worst]
  | rsmFirst ch b | rsmNext ch b =>
    by_cases hs : ch.toNat < s.nSess <;> simp [txNeed, smpNeed, pushNeed, hs, worst]
  | _ => simp [txNeed, smpNeed]

/-- Settles O13: a hold is a stream with less room than the need, and the need is what each rule says. -/
theorem holdOnlyForLackOfRoom : Obligations.HoldOnlyForLackOfRoom := by
  refine ⟨fun i s t exactRule h => heldInstr_iff_overflow exactRule h,
    fun i s worst => heldInstr_iff_worstCase i worst, fun i s hhdr hbyte hpush => ?_,
    fun i s tx smp => heldInstr_unbounded i tx smp, fun w rest s idle offered hold => ?_⟩
  · rw [← Bool.not_eq_true, heldInstr_iff, txNeed_eq_zero s hhdr hbyte, smpNeed_eq_zero s hpush]
    simp
  · have hs : { s with acts := [] } = s := by rw [← idle]
    rw [step_held (.inl ⟨idle, rfl⟩) offered hold, hs]

/-! ## A run over the words of a list of operations (R43) -/

/-- No two rows of R63 have the same unit and function. -/
theorem find?_opcodeTable {r : Row} (h : r ∈ opcodeTable) :
    opcodeTable.find? (fun q => q.unit == r.unit && q.func == r.func) = some r := by
  revert r
  simp [opcodeTable, sysRows, crcRows, encRows, rsmRows, decRows]

theorem encode_matchesItsRow (i : Instr) : Laws.MatchesItsRow.Statement i := by
  cases i with
  | sysNop => exact Laws.MatchesItsRow.sysNop
  | sysRdstat => exact Laws.MatchesItsRow.sysRdstat
  | sysClrstat => exact Laws.MatchesItsRow.sysClrstat
  | crcClr => exact Laws.MatchesItsRow.crcClr
  | crcByte b => exact Laws.MatchesItsRow.crcByte b
  | crcRd => exact Laws.MatchesItsRow.crcRd
  | encHdr len => exact Laws.MatchesItsRow.encHdr len
  | encByte b => exact Laws.MatchesItsRow.encByte b
  | encAbort => exact Laws.MatchesItsRow.encAbort
  | encRd => exact Laws.MatchesItsRow.encRd
  | rsmFirst ch b => exact Laws.MatchesItsRow.rsmFirst ch b
  | rsmNext ch b => exact Laws.MatchesItsRow.rsmNext ch b
  | rsmClr ch => exact Laws.MatchesItsRow.rsmClr ch
  | rsmRd ch => exact Laws.MatchesItsRow.rsmRd ch
  | rsmRdbuf ch k => exact Laws.MatchesItsRow.rsmRdbuf ch k
  | decRdvc ch => exact Laws.MatchesItsRow.decRdvc ch
  | decRdic ch => exact Laws.MatchesItsRow.decRdic ch
  | decRdwc ch => exact Laws.MatchesItsRow.decRdwc ch
  | decRdvf ch => exact Laws.MatchesItsRow.decRdvf ch
  | decRdif ch => exact Laws.MatchesItsRow.decRdif ch
  | decRdwf ch => exact Laws.MatchesItsRow.decRdwf ch
  | decRdcnt ch => exact Laws.MatchesItsRow.decRdcnt ch

theorem decode_encode (i : Instr) : decode (encode i) = .ok i := by
  obtain ⟨r, hr, hunit, hfunc, hmatch, hbuild⟩ := encode_matchesItsRow i
  have hrow : rowOf (encode i) = some r := by rw [rowOf, hunit, hfunc, find?_opcodeTable hr]
  simp only [decode, hrow, hmatch, if_true, hbuild]

theorem held_encode (i : Instr) (s : State) : held (encode i) s = heldInstr i s := by
  simp only [held, decode_encode]

/-- An operation reads no word the host has still to offer, and takes none from the port. -/
theorem exec_ops (i : Instr) (s : State) (ops : List Word) :
    exec i { s with ops := ops } = mapNext (fun t => { t with ops := ops }) (exec i s) := by
  obtain ⟨t, ht, he⟩ := exec_opEffect i s
  obtain ⟨hcfg, -, hacts, htx, hsmp⟩ := he.host_eq
  refine (exec_outside i s s.cfg ops s.acts s.txTaken s.smpTaken).trans ?_
  rw [ht, ← hcfg, ← hacts, ← htx, ← hsmp]
  rfl

theorem core_run_succ {s t : State} (n : Nat) (h : step s = .next t) : core.run (n + 1) s = core.run n t := by
  have h' : core.step s = .next t := h
  simp only [Host.Core.run, h']

/-- Settles O20, by induction on the operations: none is held, so each step executes the next one. -/
theorem runIsOperationsInOrder : Obligations.RunIsOperationsInOrder := by
  intro is
  induction is with
  | nil =>
    intro s _ _ _ offered
    have hs : { s with ops := [] } = s := by rw [← (show s.ops = [] from offered)]
    rw [hs]
    rfl
  | cons i rest ih =>
    intro s htx hsmp idle offered
    have free : held (encode i) s = false := by rw [held_encode, heldInstr_unbounded i htx hsmp]
    obtain ⟨t, ht, he⟩ := exec_opEffect i { s with ops := rest.map encode }
    obtain ⟨hcfg, hops, hacts, -, -⟩ := he.host_eq
    have hstep : step s = .next t := by
      rw [step_accepts (.inl ⟨idle, rfl⟩) offered free, accept_of_ok _ (decode_encode i), ← idle, ht]
    have hexec : exec i { s with ops := [] } = .next { t with ops := [] } := by
      have h := exec_ops i { s with ops := rest.map encode } []
      rwa [ht] at h
    rw [← hcfg] at htx hsmp
    rw [List.length_cons, core_run_succ _ hstep, ih t htx hsmp (hacts.trans idle) hops, execAll, hexec]

end Sys2Proof.Machine
end

section
/-! The streams (20_memory.md R44, R45): what a step and an operation append, and a take. -/

namespace Sys2Proof.Machine

/-! ## The bytes and the events emitted, taken and waiting -/

theorem State.takeTx_emitted (s : State) : s.takeTx.txTaken ++ s.takeTx.tx = s.txTaken ++ s.tx := by
  rw [State.takeTx_txTaken, State.takeTx_tx, List.append_assoc, List.take_append_drop]

theorem State.takeSmp_emitted (s : State) : s.takeSmp.smpTaken ++ s.takeSmp.smp = s.smpTaken ++ s.smp := by
  rw [State.takeSmp_smpTaken, State.takeSmp_smp, List.append_assoc, List.take_append_drop]

theorem Effect.taken_eq {s t : State} (h : Effect s t) : t.txTaken = s.txTaken ∧ t.smpTaken = s.smpTaken := by
  cases h <;> exact ⟨rfl, rfl⟩

/-- Only reset takes a byte or an event back; an accepted operation may append, a take moves the head to the host. -/
theorem StepEffect.emitted_append {s t : State} (h : StepEffect s t)
    (noReset : ∀ again, s.acts.head? ≠ some (.reset again)) :
    (∃ new, t.txTaken ++ t.tx = (s.txTaken ++ s.tx) ++ new) ∧
    (∃ new, t.smpTaken ++ t.smp = (s.smpTaken ++ s.smp) ++ new) := by
  cases h with
  | waits acts => exact ⟨⟨[], (List.append_nil _).symm⟩, ⟨[], (List.append_nil _).symm⟩⟩
  | takesTx more act => exact ⟨⟨[], by simpa using s.popAct.takeTx_emitted⟩, ⟨[], (List.append_nil _).symm⟩⟩
  | takesSmp more act => exact ⟨⟨[], (List.append_nil _).symm⟩, ⟨[], by simpa using s.popAct.takeSmp_emitted⟩⟩
  | resets again more act => exact absurd (by rw [act]; rfl) (noReset again)
  | accepts w rest acts t offered free takes effect =>
    obtain ⟨bytes, htx⟩ := effect.tx_append
    obtain ⟨events, hsmp⟩ := effect.smp_append
    obtain ⟨httaken, hstaken⟩ := effect.taken_eq
    rw [htx, hsmp, httaken, hstaken]
    exact ⟨⟨bytes, (List.append_assoc ..).symm⟩, ⟨events, (List.append_assoc ..).symm⟩⟩

theorem step_takeTx {s : State} {more : List HostAct} (act : s.acts = .takeTx :: more) :
    step s = .next s.popAct.takeTx := by
  simp only [step, portStep, act]

theorem step_takeSmp {s : State} {more : List HostAct} (act : s.acts = .takeSmp :: more) :
    step s = .next s.popAct.takeSmp := by
  simp only [step, portStep, act]

/-! ## What an operation emits -/

/-- An operation with no need of room on TX emits no byte. -/
theorem exec_tx_eq {i : Instr} {s t : State} (hneed : txNeed i s = 0) (h : exec i s = .next t) : t.tx = s.tx := by
  obtain ⟨new, hnew⟩ := (effect_of_exec h).tx_append
  have hle := (exec_emits_le i s t h).1
  rw [hneed, hnew, List.length_append] at hle
  have hempty : new = [] := List.eq_nil_of_length_eq_zero (by omega)
  rw [hnew, hempty, List.append_nil]

/-- Settles O14: only an operation with a need of room on TX emits a byte. -/
theorem txStreamLosesNothing : Obligations.TxStreamLosesNothing := by
  refine ⟨fun s t h noReset => ((effect_of_step h).emitted_append noReset).1, fun i s t h => ?_,
    fun s b tl more act head => ?_⟩
  · obtain ⟨new, hnew⟩ := (effect_of_exec h).tx_append
    refine ⟨new, hnew, (effect_of_exec h).taken_eq.1, fun emits => ?_⟩
    by_contra! hother
    obtain ⟨hhdr, hbyte⟩ := hother
    have hsame : s.tx ++ new = s.tx := hnew.symm.trans (exec_tx_eq (txNeed_eq_zero s hhdr hbyte) h)
    exact emits (List.append_right_eq_self.mp hsame)
  · rw [step_takeTx act, State.takeTx, State.popAct, act]
    simp only [head, List.drop_succ_cons, List.drop_zero, List.take_succ_cons, List.take_zero]

/-- The counters move with SMP: a completed frame is one event more and one count more on its session alone
(42_reassembler.md R133). -/
theorem Effect.events_cases {s t : State} (h : Effect s t) :
    (t.smp = s.smp ∧ ∀ k : Byte, (t.ctx k).cnt = (s.ctx k).cnt) ∨
    ∃ (ch : Byte) (f : List Byte), f.length = 23 ∧ t.smp = s.smp ++ [sampleEvent ch f] ∧
      (t.ctx ch).cnt = (s.ctx ch).cnt + 1 ∧ ∀ k : Byte, k ≠ ch → (t.ctx k).cnt = (s.ctx k).cnt := by
  cases h with
  | result | error | clear | crc | encoder => exact .inl ⟨rfl, fun _ => rfl⟩
  | buffer ch buf inRange =>
    refine .inl ⟨rfl, fun k => ?_⟩
    rw [State.ctx_ret]
    by_cases hk : k = ch
    · rw [hk, s.ctx_setCtx_self ch _ inRange]
    · rw [s.ctx_setCtx_ne _ hk]
  | frame ch f inRange whole =>
    refine .inr ⟨ch, f, whole, rfl, ?_, fun k hk => ?_⟩
    · rw [State.ctx_ret, State.ctx_emitSmp, s.ctx_setCtx_self ch _ inRange]
      rfl
    · rw [State.ctx_ret, State.ctx_emitSmp, s.ctx_setCtx_ne _ hk]

theorem pushes_of_event {i : Instr} {s t : State} (h : exec i s = .next t) (hsmp : t.smp ≠ s.smp) :
    ∃ ch b, i = .rsmFirst ch b ∨ i = .rsmNext ch b := by
  by_contra! hother
  exact hsmp ((opEffect_of_exec h).decoder_eq hother).1

/-- An operation emits at most one event, on the session of the byte it pushes, exactly when the counter advances. -/
theorem exec_events {i : Instr} {s t : State} (h : exec i s = .next t) :
    (t.smp = s.smp ∧ ∀ k : Byte, (t.ctx k).cnt = (s.ctx k).cnt) ∨
    ∃ (ch b : Byte) (f : List Byte), (i = .rsmFirst ch b ∨ i = .rsmNext ch b) ∧ f.length = 23 ∧
      t.smp = s.smp ++ [sampleEvent ch f] ∧
      (t.ctx ch).cnt = (s.ctx ch).cnt + 1 ∧ ∀ k : Byte, k ≠ ch → (t.ctx k).cnt = (s.ctx k).cnt := by
  obtain hsame | ⟨ch, f, whole, hsmp, hcnt, hothers⟩ := (effect_of_exec h).events_cases
  · exact .inl hsame
  · obtain ⟨k, b, op⟩ := pushes_of_event h (by simp [hsmp])
    have hses : i.session? = some k := by rcases op with rfl | rfl <;> rfl
    have hk : k = ch := by
      by_contra hne
      have hctx : t.ctx ch = s.ctx ch := (opEffect_of_exec h).ctx_eq (by simpa [hses] using hne)
      simp [hctx] at hcnt
    subst hk
    exact .inr ⟨k, b, f, op, whole, hsmp, hcnt, hothers⟩

/-- Settles O15: the record of R45 is `sampleEvent`. -/
theorem oneEventPerCompletedFrame : Obligations.OneEventPerCompletedFrame := by
  refine ⟨fun s t h noReset => ((effect_of_step h).emitted_append noReset).2, fun i s t h => exec_events h,
    fun s e tl more act head => ?_⟩
  rw [step_takeSmp act, State.takeSmp, State.popAct, act]
  simp only [head, List.drop_succ_cons, List.drop_zero, List.take_succ_cons, List.take_zero]

end Sys2Proof.Machine
end

section
/-! A session under runs that differ on the other sessions (20_memory.md R48). -/

namespace Sys2Proof.Machine

/-! ## States that agree on a session -/

/-- What an operation on session `ch` reads, and what it writes besides its result: its context and its events. Two
states that agree on it may differ in everything else. -/
structure AgreeOn (ch : Byte) (s u : State) : Prop where
  nSess : s.nSess = u.nSess
  ctx : s.ctx ch = u.ctx ch
  events : eventsOf ch s.smp = eventsOf ch u.smp

theorem AgreeOn.refl (ch : Byte) (s : State) : AgreeOn ch s s := ⟨rfl, rfl, rfl⟩

section
variable {ch : Byte} {s u : State}

theorem AgreeOn.ret (h : AgreeOn ch s u) (v w : Res) : AgreeOn ch (s.ret v) (u.ret w) :=
  ⟨h.nSess, h.ctx, h.events⟩

theorem AgreeOn.setCtx (h : AgreeOn ch s u) (inRange : ch.toNat < s.nSess) (c : Session) :
    AgreeOn ch (s.setCtx ch c) (u.setCtx ch c) where
  nSess := by simpa using h.nSess
  ctx := by rw [s.ctx_setCtx_self ch c inRange, u.ctx_setCtx_self ch c (h.nSess ▸ inRange)]
  events := h.events

theorem AgreeOn.emitSmp (h : AgreeOn ch s u) (e : SampleEvent) : AgreeOn ch (s.emitSmp e) (u.emitSmp e) where
  nSess := h.nSess
  ctx := h.ctx
  events := by
    have hev := h.events
    simp only [eventsOf, State.emitSmp_smp, List.filter_append] at hev ⊢
    rw [hev]

theorem AgreeOn.rsmPush (h : AgreeOn ch s u) (inRange : ch.toNat < s.nSess) (c : Session) (b : Byte) :
    AgreeOn ch (rsmPush ch c b s) (rsmPush ch c b u) := by
  by_cases hl : c.buf.length = 22
  · rw [rsmPush_completes _ _ _ _ hl, rsmPush_completes _ _ _ _ hl]
    exact (h.setCtx inRange _).emitSmp _
  · rw [rsmPush_appends _ _ _ _ hl, rsmPush_appends _ _ _ _ hl]
    exact h.setCtx inRange _

end

/-! ## An operation on the session, and one on another -/

/-- Two outcomes, of the states `s` and `u`, that return the same one result and agree on session `ch`. -/
def RespondAlike (ch : Byte) (s u : State) (a b : Outcome) : Prop :=
  ∃ (s' u' : State) (v : Res), a = .next (s'.ret v) ∧ b = .next (u'.ret v) ∧ AgreeOn ch s' u' ∧
    s'.results = s.results ∧ u'.results = u.results

section
variable {ch : Byte} {s u : State}

theorem withSession_alike (h : AgreeOn ch s u) {k k' : Session → State}
    (body : ch.toNat < s.nSess → ∀ c, RespondAlike ch s u (.next (k c)) (.next (k' c))) :
    RespondAlike ch s u (withSession ch s k) (withSession ch u k') := by
  by_cases hs : ch.toNat < s.nSess
  · rw [withSession_of_lt k hs, withSession_of_lt k' (h.nSess ▸ hs), ← h.ctx]
    exact body hs _
  · have hge := Nat.le_of_not_lt hs
    rw [withSession_of_ge k hge, withSession_of_ge k' (h.nSess ▸ hge)]
    exact ⟨s.noteError .badCh, u.noteError .badCh, 0, rfl, rfl, ⟨h.nSess, h.ctx, h.events⟩, rfl, rfl⟩

theorem sessionRead_alike (h : AgreeOn ch s u) (v : Session → Res) :
    RespondAlike ch s u (withSession ch s fun c => s.ret (v c)) (withSession ch u fun c => u.ret (v c)) :=
  withSession_alike h fun _ c => ⟨s, u, v c, rfl, rfl, h, rfl, rfl⟩

theorem rsmPush_results (ch : Byte) (c : Session) (b : Byte) (s : State) :
    (rsmPush ch c b s).results = s.results := by
  obtain ⟨c', smp, h⟩ := rsmPush_eq_setCtx ch c b s
  rw [h, State.setCtx_results]

theorem rsmPush_alike (h : AgreeOn ch s u) (inRange : ch.toNat < s.nSess) (c : Session) (b : Byte) :
    RespondAlike ch s u (.next ((rsmPush ch c b s).ret 0)) (.next ((rsmPush ch c b u).ret 0)) :=
  ⟨_, _, 0, rfl, rfl, h.rsmPush inRange c b, rsmPush_results ch c b s, rsmPush_results ch c b u⟩

/-- An operation on session `ch` returns the same result in states that agree on `ch`, and keeps them so. -/
theorem exec_alike {i : Instr} (hi : i.session? = some ch) (h : AgreeOn ch s u) :
    RespondAlike ch s u (exec i s) (exec i u) := by
  cases i with
  | sysNop | sysRdstat | sysClrstat | crcClr | crcByte | crcRd | encHdr | encByte | encAbort | encRd => cases hi
  | rsmFirst k b =>
    cases hi
    simp only [exec, execRsmFirst]
    exact withSession_alike h fun inRange c => rsmPush_alike h inRange (c.startChunk b) b
  | rsmNext k b =>
    cases hi
    simp only [exec, execRsmNext]
    refine withSession_alike h fun inRange c => ?_
    cases c.drop with
    | false => exact rsmPush_alike h inRange c b
    | true => exact ⟨s, u, 0, rfl, rfl, h, rfl, rfl⟩
  | rsmClr k =>
    cases hi
    simp only [exec, execRsmClr]
    exact withSession_alike h fun inRange c => ⟨_, _, 0, rfl, rfl, h.setCtx inRange _, rfl, rfl⟩
  | rsmRd k | rsmRdbuf k | decRdvc k | decRdic k | decRdwc k | decRdvf k | decRdif k | decRdwf k | decRdcnt k =>
    cases hi
    simp only [exec, execRsmRd, execRsmRdbuf, execDecRdvc, execDecRdic, execDecRdwc, execDecRdvf, execDecRdif,
      execDecRdwf, execDecRdcnt]
    exact sessionRead_alike h _

/-- An operation that does not name session `ch` leaves its context and its events. -/
theorem exec_agreeOn {i : Instr} {t : State} (hi : i.session? ≠ some ch) (h : exec i s = .next t) :
    AgreeOn ch t s where
  nSess := (effect_of_exec h).parameters_eq.2
  ctx := (opEffect_of_exec h).ctx_eq hi
  events := by
    obtain ⟨hsame, -⟩ | ⟨k, b, f, op, -, hsmp, -⟩ := exec_events h
    · rw [hsame]
    · have hk : k ≠ ch := by
        rintro rfl
        rcases op with rfl | rfl <;> exact hi rfl
      simp [hsmp, eventsOf, sampleEvent, hk]

theorem AgreeOn.trans {t : State} (h : AgreeOn ch s t) (h' : AgreeOn ch t u) : AgreeOn ch s u :=
  ⟨h.nSess.trans h'.nSess, h.ctx.trans h'.ctx, h.events.trans h'.events⟩

/-! ## Runs -/

theorem execAll_cons {i : Instr} (is : List Instr) {t : State} (h : exec i s = .next t) :
    execAll (i :: is) s = execAll is t := by
  rw [execAll, h]

end

theorem resultsOf_cons_of_session {ch : Byte} {i : Instr} (hi : i.session? = some ch) (is : List Instr) (v : Res)
    (rs : List Res) : resultsOf ch (i :: is) (v :: rs) = v :: resultsOf ch is rs := by
  simp [resultsOf, onSession, hi]

theorem resultsOf_cons_of_other {ch : Byte} {i : Instr} (hi : i.session? ≠ some ch) (is : List Instr) (v : Res)
    (rs : List Res) : resultsOf ch (i :: is) (v :: rs) = resultsOf ch is rs := by
  simp [resultsOf, onSession, hi]

/-- A run agrees on session `ch`, in its results too, with the run of the operations on `ch` alone. The two runs may
start in different states, since the operations left out change only one of them. -/
theorem execAll_agreeOn (ch : Byte) (is : List Instr) (s w : State) (h : AgreeOn ch s w) :
    ∃ (t u : State) (rs qs : List Res),
      execAll is s = .next t ∧ execAll (is.filter (onSession ch)) w = .next u ∧ AgreeOn ch t u ∧
      t.results = s.results ++ rs ∧ u.results = w.results ++ qs ∧ resultsOf ch is rs = qs := by
  induction is generalizing s w with
  | nil => exact ⟨s, w, [], [], rfl, rfl, h, (List.append_nil _).symm, (List.append_nil _).symm, rfl⟩
  | cons i rest ih =>
    by_cases hi : i.session? = some ch
    · obtain ⟨s', w', v, hs, hw, hagree, hrs, hrw⟩ := exec_alike hi h
      obtain ⟨t, u, rs, qs, ht, hu, htu, hrt, hru, hres⟩ := ih _ _ (hagree.ret v v)
      rw [List.filter_cons_of_pos (by simp [onSession, hi]), execAll_cons _ hs, execAll_cons _ hw]
      refine ⟨t, u, v :: rs, v :: qs, ht, hu, htu, ?_, ?_, ?_⟩
      · rw [hrt, State.ret_results, hrs, List.append_assoc, List.singleton_append]
      · rw [hru, State.ret_results, hrw, List.append_assoc, List.singleton_append]
      · rw [resultsOf_cons_of_session hi, hres]
    · obtain ⟨s', hs, he⟩ := exec_opEffect i s
      obtain ⟨v, hv, -⟩ := he.one_result
      obtain ⟨t, u, rs, qs, ht, hu, htu, hrt, hru, hres⟩ := ih s' w ((exec_agreeOn hi hs).trans h)
      rw [List.filter_cons_of_neg (by simp [onSession, hi]), execAll_cons _ hs]
      refine ⟨t, u, v :: rs, qs, ht, hu, htu, ?_, hru, ?_⟩
      · rw [hrt, hv, List.append_assoc, List.singleton_append]
      · rw [resultsOf_cons_of_other hi, hres]

/-- Settles O54: two interleavings of the same operations on a session agree with the one run of them alone. -/
theorem sessionDependsOnItsOperations : Obligations.SessionDependsOnItsOperations := by
  refine ⟨fun is s ch => ?_, fun is js s t u same ht hu ch => ?_⟩
  · obtain ⟨t, u, rs, qs, ht, hu, htu, hrs, hqs, hres⟩ := execAll_agreeOn ch is s s (.refl ch s)
    exact ⟨t, u, rs, qs, ht, hu, htu.ctx, htu.events, hrs, hqs, hres⟩
  · obtain ⟨t', a, -, -, ht', ha, hta, -⟩ := execAll_agreeOn ch is s s (.refl ch s)
    obtain ⟨u', b, -, -, hu', hb, hub, -⟩ := execAll_agreeOn ch js s s (.refl ch s)
    cases ht.symm.trans ht'
    cases hu.symm.trans hu'
    rw [same ch] at ha
    cases ha.symm.trans hb
    exact ⟨hta.ctx.trans hub.ctx.symm, hta.events.trans hub.events.symm⟩

end Sys2Proof.Machine
end

section
/-! Operations repeated (20_memory.md R50). -/

namespace Sys2Proof.Machine

/-! ## Reads -/

/-- A read on a session the block has returns what its context holds, whatever has been returned before. -/
theorem sessionRead_results {ch : Byte} {s : State} (inRange : ch.toNat < s.nSess) (v : Session → Res) :
    ∃ r : Res, ∀ rs : List Res,
      withSession ch { s with results := rs } (fun c => State.ret (v c) { s with results := rs }) =
        .next { s with results := rs ++ [r] } :=
  ⟨v (s.ctx ch), fun rs => withSession_of_lt (s := { s with results := rs }) _ inRange⟩

/-- A read without an error returns the same result whatever has been returned before, and changes nothing else. -/
theorem exec_read {i : Instr} {s : State} (read : isRead i = true)
    (inRange : ∀ ch, i.session? = some ch → ch.toNat < s.nSess) :
    ∃ v : Res, ∀ rs : List Res, exec i { s with results := rs } = .next { s with results := rs ++ [v] } := by
  cases i with
  | sysNop | sysClrstat | crcClr | crcByte | encHdr | encByte | encAbort | rsmFirst | rsmNext | rsmClr => cases read
  | sysRdstat => exact ⟨s.status.setWidth 64, fun _ => rfl⟩
  | crcRd => exact ⟨(s.crcReg ^^^ XOROUT).setWidth 64, fun _ => rfl⟩
  | encRd => exact ⟨(s.encCrc ++ 0#7 ++ flag s.encOpen ++ s.encRem).setWidth 64, fun _ => rfl⟩
  | rsmRd ch | rsmRdbuf ch | decRdvc ch | decRdic ch | decRdwc ch | decRdvf ch | decRdif ch | decRdwf ch
  | decRdcnt ch =>
    simp only [exec, execRsmRd, execRsmRdbuf, execDecRdvc, execDecRdic, execDecRdwc, execDecRdvf, execDecRdif,
      execDecRdwf, execDecRdcnt]
    exact sessionRead_results (inRange ch rfl) _

/-! ## Clears -/

/-- A second error of the same code changes nothing more than its result. -/
theorem State.raise_raise (s : State) (e : ErrCode) : (s.raise e).raise e = (s.raise e).ret 0 := by
  simp only [State.raise, State.noteError, State.ret, BitVec.or_assoc, BitVec.or_self]

theorem exec_rsmClr_twice (ch : Byte) (s : State) :
    ∃ t, exec (.rsmClr ch) s = .next t ∧ exec (.rsmClr ch) t = .next (t.ret 0) := by
  by_cases h : ch.toNat < s.nSess
  · simp only [exec, execRsmClr]
    refine ⟨_, withSession_of_lt _ h, ?_⟩
    rw [withSession_of_lt _ (by simpa using h), State.ctx_ret, s.ctx_setCtx_self ch _ h]
    simp only [State.setCtx, State.ret, List.set_set]
  · have hge := Nat.le_of_not_lt h
    refine ⟨s.raise .badCh, exec_badCh rfl hge, ?_⟩
    rw [exec_badCh (s := s.raise .badCh) rfl hge, s.raise_raise]

/-- A clear a second time changes nothing more than its result. -/
theorem exec_clear_twice {i : Instr} (s : State)
    (clear : i = .crcClr ∨ i = .encAbort ∨ (∃ ch, i = .rsmClr ch) ∨ i = .sysClrstat) :
    ∃ t, exec i s = .next t ∧ exec i t = .next (t.ret 0) := by
  obtain rfl | rfl | ⟨ch, rfl⟩ | rfl := clear
  · exact ⟨_, rfl, rfl⟩
  · exact ⟨_, rfl, rfl⟩
  · exact exec_rsmClr_twice ch s
  · exact ⟨_, rfl, rfl⟩

/-! ## Errors -/

theorem State.status_raise_raise (s : State) (e : ErrCode) : ((s.raise e).raise e).status = (s.raise e).status := by
  rw [State.raise_raise]
  rfl

theorem exec_encHdr_busy (len : BitVec 16) {s : State} (opened : s.encOpen = true) :
    exec (.encHdr len) s = .next (s.raise .encBusy) :=
  if_pos opened

theorem exec_encByte_idle (b : Byte) {s : State} (idle : s.encOpen = false) :
    exec (.encByte b) s = .next (s.raise .encIdle) :=
  if_neg (by simp [idle])

theorem rsmPush_status (ch : Byte) (c : Session) (b : Byte) (s : State) : (rsmPush ch c b s).status = s.status := by
  obtain ⟨c', smp, h⟩ := rsmPush_eq_setCtx ch c b s
  rw [h]
  rfl

section
variable {s t u : State}

/-- A session operation repeated: its body leaves `STATUS`, or both times it is `E_BADCH`. -/
theorem withSession_repeat_status {ch : Byte} {k k' : Session → State} (sessions : t.nSess = s.nSess)
    (first : withSession ch s k = .next t) (again : withSession ch t k' = .next u)
    (body : ∀ c, (k' c).status = t.status) : u.status = t.status := by
  by_cases h : ch.toNat < t.nSess
  · rw [withSession_of_lt k' h] at again
    cases again
    exact body _
  · have hge := Nat.le_of_not_lt h
    rw [withSession_of_ge k' hge] at again
    rw [withSession_of_ge k (sessions ▸ hge)] at first
    cases first
    cases again
    exact s.status_raise_raise _

/-- An operation that emitted no byte leaves `STATUS` when it is repeated: an error is raised again by the same check,
`SYS.CLRSTAT` and `ENC.ABORT` write what they have just written, and what else writes `STATUS` emits. -/
theorem exec_repeat_status {i : Instr} (first : exec i s = .next t) (silent : t.tx = s.tx)
    (again : exec i t = .next u) : u.status = t.status := by
  have sessions : t.nSess = s.nSess := (effect_of_exec first).parameters_eq.2
  cases i with
  | sysNop | sysRdstat | crcClr | crcByte | crcRd | encRd => cases again; rfl
  | sysClrstat | encAbort => cases first; cases again; rfl
  | encHdr len =>
    cases ho : s.encOpen with
    | false =>
      have hlen := encHdr_emits ho first
      rw [silent] at hlen
      split at hlen <;> omega
    | true =>
      rw [exec_encHdr_busy len ho] at first
      cases first
      rw [exec_encHdr_busy (s := s.raise .encBusy) len ho] at again
      cases again
      exact s.status_raise_raise _
  | encByte b =>
    cases ho : s.encOpen with
    | true =>
      have hlen := encByte_emits ho first
      rw [silent] at hlen
      split at hlen <;> omega
    | false =>
      rw [exec_encByte_idle b ho] at first
      cases first
      rw [exec_encByte_idle (s := s.raise .encIdle) b ho] at again
      cases again
      exact s.status_raise_raise _
  | rsmFirst ch b =>
    simp only [exec, execRsmFirst] at first again
    exact withSession_repeat_status sessions first again fun c => rsmPush_status ch (c.startChunk b) b t
  | rsmNext ch b =>
    simp only [exec, execRsmNext] at first again
    refine withSession_repeat_status sessions first again fun c => ?_
    cases c.drop with
    | false => exact rsmPush_status ch c b t
    | true => rfl
  | rsmClr ch | rsmRd ch | rsmRdbuf ch | decRdvc ch | decRdic ch | decRdwc ch | decRdvf ch | decRdif ch | decRdwf ch
  | decRdcnt ch =>
    simp only [exec, execRsmClr, execRsmRd, execRsmRdbuf, execDecRdvc, execDecRdic, execDecRdwc, execDecRdvf,
      execDecRdif, execDecRdwf, execDecRdcnt] at first again
    exact withSession_repeat_status sessions first again fun c => rfl

/-- A word repeated after it emitted no byte leaves `STATUS`. -/
theorem accept_repeat_status {w : Word} (first : accept w s = .next t) (silent : t.tx = s.tx)
    (again : accept w t = .next u) : u.status = t.status := by
  cases hd : decode w with
  | ok i =>
    rw [accept_of_ok _ hd] at first again
    exact exec_repeat_status first silent again
  | illegal why =>
    rw [accept_of_illegal _ hd] at first again
    cases first
    cases again
    exact s.status_raise_raise .illegal

end

/-- Settles O56: a read does not see the results before it, and an error emits no byte. -/
theorem idempotentOperations : Obligations.IdempotentOperations := by
  refine ⟨fun i s read inRange => ?_, fun i s clear => exec_clear_twice s clear, fun w s e _ herr => ?_⟩
  · obtain ⟨v, hv⟩ := exec_read read inRange
    have hfirst : exec i s = .next { s with results := s.results ++ [v] } := hv s.results
    have hagain := hv (s.results ++ [v])
    rw [List.append_assoc, List.singleton_append] at hagain
    refine ⟨v, hfirst, ?_⟩
    rw [execAll_cons _ hfirst, execAll_cons _ hagain]
    rfl
  · obtain ⟨-, haccept⟩ := herr
    obtain ⟨u, hu, -⟩ := accept_effect w (afterError e.1 e.2 s)
    exact ⟨u, hu, accept_repeat_status haccept rfl hu⟩

end Sys2Proof.Machine
end

section
/-! The opcode map of 30_encoding.md R63 read in both directions: a row's mask fixes `UNIT` and `FUNC`, no two rows
share them, and the bits a row leaves free are the operands of what it builds. -/

namespace Sys2Proof.Machine

/-! ## Fields under a mask -/

theorem unitOf_and (w m : Word) : unitOf (w &&& m) = unitOf w &&& unitOf m := BitVec.extractLsb'_and

theorem funcOf_and (w m : Word) : funcOf (w &&& m) = funcOf w &&& funcOf m := BitVec.extractLsb'_and

theorem chOf_and (w m : Word) : chOf (w &&& m) = chOf w &&& chOf m := BitVec.extractLsb'_and

theorem immOf_and (w m : Word) : immOf (w &&& m) = immOf w &&& immOf m := BitVec.extractLsb'_and

/-- The byte operand put back as an immediate is `IMM` with its high byte cleared. -/
theorem immByte_byteOf (w : Word) : immByte (byteOf w) = immOf w &&& 0x00FF#16 := by
  have low : ∀ j : Fin 16, (0x00FF#16).getLsbD j = decide (j.val < 8) := by decide
  apply BitVec.eq_of_getLsbD_eq
  intro i hi
  have hlow := low ⟨i, hi⟩
  simp [immByte, byteOf, immOf] at hlow ⊢
  grind

/-- A vector that is 0 under a mask lies in the mask's complement. -/
theorem and_not_eq_self {n : Nat} {x m : BitVec n} (h : x &&& m = 0) : x &&& ~~~m = x := by
  calc x &&& ~~~m = (x &&& m) ||| (x &&& ~~~m) := by rw [h]; exact BitVec.zero_or.symm
    _ = x &&& (m ||| ~~~m) := BitVec.and_or_distrib_left.symm
    _ = x := by rw [BitVec.or_not_self, BitVec.and_allOnes]

/-! ## Rows (R63) -/

/-- Every row compares all of `UNIT` and `FUNC`, and its `match` is its unit and function with zeros below. -/
theorem row_shape : ∀ r ∈ opcodeTable, unitOf r.mask = BitVec.allOnes 4 ∧ funcOf r.mask = BitVec.allOnes 4 ∧
    r.pat = mkWord r.unit r.func 0 0 := by decide

/-- A word matches a row exactly when it has the row's unit and function and 0 in the bits the row does not use. -/
theorem matches_iff {r : Row} (hr : r ∈ opcodeTable) (w : Word) :
    w &&& r.mask = r.pat ↔
      unitOf w = r.unit ∧ funcOf w = r.func ∧ chOf w &&& chOf r.mask = 0 ∧ immOf w &&& immOf r.mask = 0 := by
  obtain ⟨hunit, hfunc, hpat⟩ := row_shape r hr
  rw [hpat, ← mkWord_fields (w &&& r.mask), mkWord_inj, unitOf_and, funcOf_and, chOf_and, immOf_and, hunit, hfunc,
    BitVec.and_allOnes, BitVec.and_allOnes]

/-- The word of what a row builds from `w`: the row's unit and function, and of `w` the bits the mask leaves free. -/
theorem encode_build (w : Word) : ∀ r ∈ opcodeTable,
    encode (r.build w) = mkWord r.unit r.func (chOf w &&& ~~~chOf r.mask) (immOf w &&& ~~~immOf r.mask) := by
  have keepImm : ∀ x : BitVec 16, x &&& 0xFFFF#16 = x := fun _ => BitVec.and_allOnes
  have keepCh : ∀ x : Byte, x &&& 0xFF#8 = x := fun _ => BitVec.and_allOnes
  simp [opcodeTable, sysRows, crcRows, encRows, rsmRows, decRows, encode, immByte_byteOf, chOf, immOf, keepImm,
    keepCh]

theorem rowOf_eq_some_iff {w : Word} {r : Row} :
    rowOf w = some r ↔ r ∈ opcodeTable ∧ r.unit = unitOf w ∧ r.func = funcOf w := by
  constructor
  · intro h
    have hcodes := List.find?_some h
    simp only [Bool.and_eq_true, beq_iff_eq] at hcodes
    exact ⟨List.mem_of_find?_eq_some h, hcodes⟩
  · rintro ⟨hr, hunit, hfunc⟩
    rw [rowOf, ← hunit, ← hfunc, find?_opcodeTable hr]

theorem rowOf_eq_none_iff {w : Word} :
    rowOf w = none ↔ ∀ r ∈ opcodeTable, ¬(r.unit = unitOf w ∧ r.func = funcOf w) := by
  simp [rowOf, List.find?_eq_none]

/-- A word that matches a row has that row's unit and function. -/
theorem rowOf_of_matches {w : Word} {r : Row} (hr : r ∈ opcodeTable) (h : w &&& r.mask = r.pat) :
    rowOf w = some r := by
  obtain ⟨hunit, hfunc, -, -⟩ := (matches_iff hr w).mp h
  exact rowOf_eq_some_iff.mpr ⟨hr, hunit.symm, hfunc.symm⟩

/-- The pairs of `UNIT` and `FUNC` that no row of R63 has, as R66 lists them. -/
theorem unassigned_codes (unit func : BitVec 4) :
    (∀ r ∈ opcodeTable, ¬(r.unit = unit ∧ r.func = func)) ↔
      5 ≤ unit.toNat ∨ (unit = 0 ∧ 3 ≤ func.toNat) ∨ (unit = 1 ∧ 3 ≤ func.toNat) ∨ (unit = 2 ∧ 4 ≤ func.toNat) ∨
        (unit = 3 ∧ 5 ≤ func.toNat) ∨ (unit = 4 ∧ 7 ≤ func.toNat) := by
  revert unit func
  decide

/-! ## The cases of `decode` (R191) -/

theorem decode_of_rowOf_some {w : Word} {r : Row} (h : rowOf w = some r) :
    decode w = if w &&& r.mask = r.pat then .ok (r.build w) else .illegal .unusedField := by
  rw [decode, h]

theorem decode_of_matches {w : Word} {r : Row} (hr : r ∈ opcodeTable) (h : w &&& r.mask = r.pat) :
    decode w = .ok (r.build w) := by
  rw [decode_of_rowOf_some (rowOf_of_matches hr h), if_pos h]

theorem decode_eq_unassigned_iff {w : Word} : decode w = .illegal .unassigned ↔ rowOf w = none := by
  cases h : rowOf w with
  | none => simp [decode, h]
  | some r =>
    rw [decode_of_rowOf_some h]
    split <;> simp

theorem decode_eq_unusedField_iff {w : Word} :
    decode w = .illegal .unusedField ↔ ∃ r, rowOf w = some r ∧ w &&& r.mask ≠ r.pat := by
  cases h : rowOf w with
  | none => simp [decode, h]
  | some r => simp [decode_of_rowOf_some h]

theorem encode_of_decode {w : Word} {i : Instr} (h : decode w = .ok i) : encode i = w := by
  obtain ⟨r, hr, hmatch, rfl⟩ := row_of_decode_ok h
  obtain ⟨hunit, hfunc, hch, himm⟩ := (matches_iff hr w).mp hmatch
  rw [encode_build w r hr, ← hunit, ← hfunc, and_not_eq_self hch, and_not_eq_self himm, mkWord_fields]

/-! ## The statements -/

/-- Settles O1: the word of an operation matches the operation's own row, which builds the operation from it. -/
theorem decodeEncodeRoundTrip : Obligations.DecodeEncodeRoundTrip := decode_encode

/-- Settles O2: the bits of a legal word are its row's codes, the operands, and zeros. -/
theorem encodeDecodeSameWord : Obligations.EncodeDecodeSameWord := fun _ _ => encode_of_decode

/-- Settles O3: a matching row has the word's unit and function, and no two rows share those. -/
theorem wordSelectsItsRow : Obligations.WordSelectsItsRow := by
  refine ⟨fun w i => ⟨row_of_decode_ok, ?_⟩, fun w r hr q hq hmatch hmatch' => ?_⟩
  · rintro ⟨r, hr, hmatch, rfl⟩
    exact decode_of_matches hr hmatch
  · have hrow : some r = some q := (rowOf_of_matches hr hmatch).symm.trans (rowOf_of_matches hq hmatch')
    rw [Option.some.inj hrow]

/-- Settles O4: a word is unassigned when it has no row, misuses a field when it has one and does not match it, and
is accepted as `E_ILLEGAL` in both cases. -/
theorem illegalWordsExactly : Obligations.IllegalWordsExactly := by
  refine ⟨fun w => ?_, fun w => ?_, fun w why s h => ⟨held_of_illegal s h, accept_of_illegal s h⟩⟩
  · rw [decode_eq_unassigned_iff, rowOf_eq_none_iff, unassigned_codes]
  · simp only [decode_eq_unusedField_iff, rowOf_eq_some_iff, and_assoc]

/-- An operation's word, each way. -/
theorem encode_and_decode {i : Instr} {w : Word} (h : encode i = w) : encode i = w ∧ decode w = .ok i :=
  ⟨h, h ▸ decode_encode i⟩

/-- Settles O5: the words as `encode` lays them out; the other way is the round trip. -/
theorem exampleWords : Obligations.ExampleWords :=
  ⟨encode_and_decode (by decide), encode_and_decode (by decide), encode_and_decode (by decide),
    encode_and_decode (by decide), encode_and_decode (by decide), encode_and_decode (by decide)⟩

end Sys2Proof.Machine
end

section
/-! The assembler's checks and expansions, form by form (30_encoding.md R74, R75). -/

namespace Sys2Proof.Machine

/-! ## Operand checks -/

/-- A `CH`, `B`, `k` or `L` in front of a form: its own range check, then the rest of the form. -/
theorem checkOperands_cons {k : OperandKind} (single : k ≠ .bytes) (ks : List OperandKind) (n : Nat) (args : List Nat) :
    checkOperands (k :: ks) (n :: args) = if n ≤ k.max then checkOperands ks args else some .operandRange := by
  cases k with
  | bytes => exact absurd rfl single
  | session | byte | length => simp only [checkOperands]

/-- A list of bytes at the end of a form passes whatever its length. -/
theorem checkOperands_bytes {args : List Nat} (h : ∀ n ∈ args, n ≤ 255) : checkOperands [.bytes] args = none := by
  have hall : args.all (· ≤ 255) = true := by simpa using h
  cases args <;> simp only [checkOperands, if_pos hall]

/-! ## A line of a known form -/

section
variable {m : String} {form : List OperandKind} {args : List Nat}

/-- Only `enc.frame` has a check beyond its operands'. -/
theorem error?_of_form (hform : asmForms.lookup m = some form) (hm : m ≠ "enc.frame") :
    AsmLine.error? ⟨m, args⟩ = checkOperands form args := by
  simp only [AsmLine.error?, hform, hm, false_and, if_false]
  cases checkOperands form args <;> rfl

theorem error?_encFrame (h : ∀ n ∈ args, n ≤ 255) :
    AsmLine.error? ⟨"enc.frame", args⟩ = if 65535 < args.length then some .sizeOverflow else none := by
  have hform : asmForms.lookup "enc.frame" = some [.bytes] := by decide
  simp only [AsmLine.error?, hform, checkOperands_bytes h, true_and]

theorem assembleLine_of_ok {l : AsmLine} (h : l.error? = none) : assembleLine l = .ok (expandLine l) := by
  rw [assembleLine, h]

theorem assembleLine_of_error {l : AsmLine} {e : AsmError} (h : l.error? = some e) : assembleLine l = .error e := by
  rw [assembleLine, h]

/-- A form of one operand: it expands in the operand's range and is refused outside it. -/
theorem assembleLine_one (k : OperandKind) (n : Nat) (hform : asmForms.lookup m = some [k] := by decide)
    (single : k ≠ .bytes := by decide) (hm : m ≠ "enc.frame" := by decide) :
    assembleLine ⟨m, [n]⟩ = if n ≤ k.max then .ok (expandLine ⟨m, [n]⟩) else .error .operandRange := by
  have herr := (error?_of_form hform hm).trans (checkOperands_cons single [] n [])
  split_ifs at herr ⊢ with hn
  · exact assembleLine_of_ok herr
  · exact assembleLine_of_error herr

/-- A form of a session and a byte: both must be in range. -/
theorem assembleLine_sessionByte (ch n : Nat) (hform : asmForms.lookup m = some [.session, .byte] := by decide)
    (hm : m ≠ "enc.frame" := by decide) :
    assembleLine ⟨m, [ch, n]⟩ =
      if ch ≤ 255 ∧ n ≤ 255 then .ok (expandLine ⟨m, [ch, n]⟩) else .error .operandRange := by
  have herr : AsmLine.error? ⟨m, [ch, n]⟩ =
      if ch ≤ 255 then if n ≤ 255 then none else some .operandRange else some .operandRange := by
    rw [error?_of_form hform hm, checkOperands_cons (by decide), checkOperands_cons (by decide)]
    rfl
  rw [← ite_and] at herr
  split_ifs at herr ⊢ with h
  · exact assembleLine_of_ok herr
  · exact assembleLine_of_error herr

theorem assembleLine_bytes (h : ∀ n ∈ args, n ≤ 255) (hform : asmForms.lookup m = some [.bytes] := by decide)
    (hm : m ≠ "enc.frame" := by decide) : assembleLine ⟨m, args⟩ = .ok (expandLine ⟨m, args⟩) :=
  assembleLine_of_ok ((error?_of_form hform hm).trans (checkOperands_bytes h))

end

theorem assembleLine_rsmChunk {ch : Nat} {args : List Nat} (hch : ch ≤ 255) (h : ∀ n ∈ args, n ≤ 255) :
    assembleLine ⟨"rsm.chunk", ch :: args⟩ = .ok (chunkOps (BitVec.ofNat 8 ch) (args.map (BitVec.ofNat 8))) := by
  have hform : asmForms.lookup "rsm.chunk" = some [.session, .bytes] := by decide
  have herr : AsmLine.error? ⟨"rsm.chunk", ch :: args⟩ = none := by
    rw [error?_of_form hform (by decide), checkOperands_cons (by decide), checkOperands_bytes h]
    exact if_pos hch
  exact assembleLine_of_ok herr

/-! ## The statements -/

/-- Settles O57: the forms without operands assemble as they stand; for the others the range check of the form is the
whole condition, whatever `N_SESS` is, and what assembles is the expansion of the name. -/
theorem operandFormsAssemble : Obligations.OperandFormsAssemble := by
  refine ⟨by decide, fun n => ?_, fun ch n => ?_, fun ch m hm => ?_⟩
  · exact ⟨assembleLine_one .byte n, assembleLine_one .byte n, assembleLine_one .length n⟩
  · exact ⟨assembleLine_sessionByte ch n, assembleLine_sessionByte ch n, assembleLine_sessionByte ch n⟩
  · fin_cases hm <;> exact assembleLine_one .session ch

/-- Settles O58: bytes in range pass the checks of every pseudo-operation but the size check of `enc.frame`, and each
expands into the reference's sequence of operations. -/
theorem pseudoOperationsExpand : Obligations.PseudoOperationsExpand := by
  refine ⟨fun p hp => ⟨?crcBytes, ?crcCompute, fun hsize => ?frame, fun hsize => ?overflow, fun ch hch =>
    ⟨assembleLine_rsmChunk hch (by simp), fun b hb => ?chunk⟩⟩, by decide⟩
  case crcBytes =>
    rw [assembleLine_bytes hp]
    simp [expandLine]
  case crcCompute =>
    rw [assembleLine_bytes hp]
    simp [expandLine, crcOps]
  case frame =>
    rw [assembleLine_of_ok ((error?_encFrame hp).trans (if_neg (Nat.not_lt.mpr hsize)))]
    simp [expandLine, frameOps]
  case overflow => exact assembleLine_of_error ((error?_encFrame hp).trans (if_pos hsize))
  case chunk =>
    rw [assembleLine_rsmChunk hch (List.forall_mem_cons.mpr ⟨hb, hp⟩)]
    simp [chunkOps]

end Sys2Proof.Machine
end

section
/-! The CRC unit (40_crc.md). The CRC step is linear over GF(2) and one-to-one in the byte, from which R92 and the laws
of R94 follow; then the words, errors and next states of the unit's operations (R95 to R97). -/

namespace Sys2Proof.Machine

/-! ## Words of operations, and words that misuse a field (R60, R66) -/

/-- A word is its codes with the session and the immediate put in their places by OR. -/
theorem mkWord_eq_or (unit func : BitVec 4) (ch : Byte) (imm : BitVec 16) :
    mkWord unit func ch imm = mkWord unit func 0 0 ||| (ch.setWidth 32 <<< 16) ||| imm.setWidth 32 := by
  apply BitVec.eq_of_getLsbD_eq
  intro i hi
  simp [mkWord]
  grind

theorem setWidth_immByte (b : Byte) : (immByte b).setWidth 32 = b.setWidth 32 := by
  apply BitVec.eq_of_getLsbD_eq
  intro i hi
  simp [immByte]
  grind

/-- The codes of a word are its bits 31:24. -/
theorem unitOf_append_funcOf (w : Word) : unitOf w ++ funcOf w = opcodeOf w :=
  BitVec.extractLsb'_append_extractLsb'_eq_extractLsb' rfl

/-- A word with a row's codes and a nonzero field that the row's mask compares with 0 raises `E_ILLEGAL`. -/
theorem unusedFieldRaises_of_field {w : Word} {r : Row} (hr : r ∈ opcodeTable) {start len : Nat}
    (opcode : opcodeOf w = r.unit ++ r.func) (nonzero : w.extractLsb' start len ≠ 0)
    (compared : r.mask.extractLsb' start len = BitVec.allOnes len) (zero : r.pat.extractLsb' start len = 0) :
    UnusedFieldRaises w := by
  have codes : r.unit ++ r.func = unitOf w ++ funcOf w := by rw [unitOf_append_funcOf, opcode]
  have unit : r.unit = unitOf w := by
    simpa only [BitVec.extractLsb'_append_eq_left] using congrArg (BitVec.extractLsb' 4 4) codes
  have func : r.func = funcOf w := by
    simpa only [BitVec.extractLsb'_append_eq_right] using congrArg (BitVec.extractLsb' 0 4) codes
  have row : rowOf w = some r := rowOf_eq_some_iff.mpr ⟨hr, unit, func⟩
  have mismatch : w &&& r.mask ≠ r.pat := by
    intro h
    apply nonzero
    rw [← zero, ← h, BitVec.extractLsb'_and, compared, BitVec.and_allOnes]
  have illegal : decode w = .illegal .unusedField := decode_eq_unusedField_iff.mpr ⟨r, row, mismatch⟩
  exact ⟨illegal, fun s => ⟨held_of_illegal s illegal, accept_of_illegal s illegal⟩⟩

/-! ## The CRC step (R90): linear, and one-to-one -/

theorem crcShift_xor (x y : Byte) : crcShift (x ^^^ y) = crcShift x ^^^ crcShift y := by
  simp only [crcShift, BitVec.getLsbD_xor, BitVec.shiftLeft_xor_distrib]
  cases x.getLsbD 7 <;> cases y.getLsbD 7 <;>
    simp only [Bool.xor_true, Bool.xor_false, Bool.not_true, Bool.not_false, Bool.false_eq_true, if_true, if_false]
  case false.true | true.false => ac_rfl
  case true.true =>
    have cancel : POLY ^^^ POLY = 0#8 := BitVec.xor_self
    calc x <<< 1 ^^^ y <<< 1 = x <<< 1 ^^^ y <<< 1 ^^^ (POLY ^^^ POLY) := by rw [cancel, BitVec.xor_zero]
      _ = (x <<< 1 ^^^ POLY) ^^^ (y <<< 1 ^^^ POLY) := by ac_rfl

theorem crcShifts_xor (n : Nat) (x y : Byte) : crcShifts n (x ^^^ y) = crcShifts n x ^^^ crcShifts n y := by
  induction n generalizing x y with
  | zero => rfl
  | succ n ih => rw [crcShifts, crcShift_xor, ih, crcShifts, crcShifts]

theorem crc8Byte_xor (c d b e : Byte) : crc8Byte (c ^^^ d) (b ^^^ e) = crc8Byte c b ^^^ crc8Byte d e := by
  rw [crc8Byte, crc8Byte, crc8Byte, ← crcShifts_xor]
  congr 1
  ac_rfl

/-- The step acts only on `c XOR b` (R92). -/
theorem crc8Byte_eq_zero_xor (c b : Byte) : crc8Byte c b = crc8Byte 0x00 (c ^^^ b) :=
  congrArg (crcShifts 8) BitVec.zero_xor.symm

theorem crc8Byte_self (c : Byte) : crc8Byte c c = 0x00 := by
  rw [crc8Byte, BitVec.xor_self]
  rfl

theorem crcShift_eq_zero : ∀ x : Byte, crcShift x = 0#8 → x = 0#8 := by decide

theorem crcShift_injective : Function.Injective crcShift := by
  intro x y h
  exact BitVec.xor_eq_zero_iff.mp (crcShift_eq_zero _ (by rw [crcShift_xor, h, BitVec.xor_self]))

theorem crcShifts_injective (n : Nat) : Function.Injective (crcShifts n) := by
  induction n with
  | zero => exact Function.injective_id
  | succ n ih => exact ih.comp crcShift_injective

/-- From any register, each register is reached by exactly one byte. -/
theorem crc8Byte_bijective (c : Byte) : Function.Bijective (crc8Byte c) := by
  have finite : Finite Byte := .of_equiv _ BitVec.equivFin.toEquiv.symm
  have injective : Function.Injective (crc8Byte c) :=
    fun _ _ h => (BitVec.xor_right_inj c).mp (crcShifts_injective 8 h)
  exact Finite.injective_iff_bijective.mp injective

/-- The registers that the byte 0x00 leaves alone. -/
theorem crc8Byte_zero_eq_self_iff : ∀ c : Byte, crc8Byte c 0x00 = c ↔ c = 0x00 ∨ c = 0x83 := by decide

theorem crcTable_eq_map : crcTable = (List.range 256).map fun n => crc8Byte 0x00 (BitVec.ofNat 8 n) := by
  decide +kernel

theorem crc8Byte_zero_eq_getD (i : Byte) : crc8Byte 0x00 i = crcTable.getD i.toNat 0 := by
  have hi : i.toNat < 256 := i.isLt
  simp [crcTable_eq_map, List.getD_eq_getElem?_getD, hi]

theorem crc8Byte_eq_getD (c b : Byte) : crc8Byte c b = crcTable.getD (c ^^^ b).toNat 0 := by
  rw [crc8Byte_eq_zero_xor, crc8Byte_zero_eq_getD]

/-! ## The CRC of a list (R91) -/

/-- `XOROUT` is 0: the CRC of a list is the register after its bytes. -/
theorem crc8_eq_foldl (p : List Byte) : crc8 p = p.foldl crc8Byte 0x00 := BitVec.xor_zero

theorem crc8_append_singleton (p : List Byte) (b : Byte) : crc8 (p ++ [b]) = crc8Byte (crc8 p) b := by
  simp only [crc8_eq_foldl, List.foldl_append, List.foldl_cons, List.foldl_nil]

theorem foldl_crc8Byte_xor (p q : List Byte) (h : p.length = q.length) (c d : Byte) :
    (List.zipWith (· ^^^ ·) p q).foldl crc8Byte (c ^^^ d) = p.foldl crc8Byte c ^^^ q.foldl crc8Byte d := by
  induction p generalizing q c d with
  | nil =>
    obtain rfl : q = [] := List.length_eq_zero_iff.mp h.symm
    rfl
  | cons b p ih =>
    cases q with
    | nil => cases h
    | cons e q =>
      rw [List.zipWith_cons_cons, List.foldl_cons, crc8Byte_xor, ih q (Nat.succ.inj h)]
      rfl

/-! ## Runs of the unit's operations (20_memory.md R43) -/

/-- A sequence executes as its first part, then the rest. -/
theorem execAll_append {is : List Instr} (js : List Instr) {s t : State} (h : execAll is s = .next t) :
    execAll (is ++ js) s = execAll js t := by
  induction is generalizing s with
  | nil => cases h; rfl
  | cons i is ih =>
    obtain ⟨u, hu, -⟩ := exec_effect i s
    rw [execAll_cons _ hu] at h
    rw [List.cons_append, execAll_cons _ hu, ih h]

theorem exec_crcByte (b : Byte) (s : State) : exec (.crcByte b) s =
    .next { s with crcReg := crc8Byte s.crcReg b, results := s.results ++ [0] } := rfl

theorem exec_crcRd (s : State) :
    exec .crcRd s = .next { s with results := s.results ++ [BitVec.ofNat 64 s.crcReg.toNat] } := by
  rw [BitVec.ofNat_toNat]
  show execCrcRd s = _
  rw [execCrcRd, BitVec.xor_zero]
  rfl

theorem execAll_crcBytes (p : List Byte) (s : State) : execAll (p.map .crcByte) s =
    .next { s with crcReg := p.foldl crc8Byte s.crcReg, results := s.results ++ List.replicate p.length 0 } := by
  induction p generalizing s with
  | nil => simp [execAll]
  | cons b p ih =>
    rw [List.map_cons, execAll_cons _ (exec_crcByte b s), ih]
    simp [List.replicate_succ]

theorem execAll_crcOps (p : List Byte) (s : State) : execAll (crcOps p) s =
    .next { s with crcReg := crc8 p,
                   results := s.results ++ List.replicate (p.length + 1) 0 ++ [BitVec.ofNat 64 (crc8 p).toNat] } := by
  have cleared : exec .crcClr s = .next { s with crcReg := 0x00, results := s.results ++ [0] } := rfl
  rw [crcOps, execAll_cons _ cleared, execAll_append _ (execAll_crcBytes p _), execAll_cons _ (exec_crcRd _), execAll,
    crc8_eq_foldl]
  simp [List.replicate_succ]

/-! ## The statements -/

/-- Settles O25: linearity and the unique byte are laws of the step, carried to lists by induction. -/
theorem crcLaws : Obligations.CrcLaws := by
  refine ⟨rfl, by decide, fun p => ?residue, fun p q h => ?linear, crc8Byte_zero_eq_self_iff, fun c => ?unique,
    ?check⟩
  case residue => rw [crc8_append_singleton, crc8Byte_self]
  case linear =>
    simp only [crc8_eq_foldl]
    exact foldl_crc8Byte_xor p q h 0x00 0x00
  case unique => exact (crc8Byte_bijective c).existsUnique c
  case check =>
    simp only [crc8_eq_foldl, List.foldl_cons, List.foldl_nil, crc8Byte_eq_getD]
    rfl

/-- Settles O28: `CRC.CLR` puts the register at `INIT`, and each byte of the list is one step of the fold of R91. -/
theorem crcRdRule : Obligations.CrcRdRule :=
  ⟨by decide,
    fun _ opcode field => unusedFieldRaises_of_field (r := crcRows[2]) (by simp [opcodeTable, crcRows])
      (opcode.trans (by decide)) field (by decide) (by decide),
    exec_crcRd, execAll_crcOps⟩

/-- Settles O24: the table holds the steps from 0, and a step acts only on `c XOR b`. -/
theorem crcTableForm : Obligations.CrcTableForm := ⟨crc8Byte_zero_eq_getD, crc8Byte_eq_getD⟩

/-- Settles O26: the row of `CRC.CLR` compares all 24 bits below the codes with 0. -/
theorem crcClrRule : Obligations.CrcClrRule :=
  ⟨by decide,
    fun _ opcode field => unusedFieldRaises_of_field (r := crcRows[0]) (by simp [opcodeTable, crcRows])
      (opcode.trans (by decide)) field (by decide) (by decide),
    fun _ => rfl⟩

/-- Settles O27: the row of `CRC.BYTE` leaves only the byte free; the corner cases are laws of the step. -/
theorem crcByteRule : Obligations.CrcByteRule := by
  refine ⟨fun b => ?word, fun _ opcode field => ?unused, exec_crcByte, ⟨by decide, fun c nonzero => ?fixed⟩,
    fun p => crc8Byte_self _⟩
  case word =>
    have codes : mkWord 1 1 0 0 ||| ((0x00 : Byte).setWidth 32 <<< 16) = 0x11000000#32 := by decide
    rw [encode, mkWord_eq_or, setWidth_immByte, codes]
  case unused =>
    exact unusedFieldRaises_of_field (r := crcRows[1]) (by simp [opcodeTable, crcRows])
      (opcode.trans (by decide)) field (by decide) (by decide)
  case fixed => rw [crc8Byte_zero_eq_self_iff, or_iff_right nonzero]

end Sys2Proof.Machine
end

section
/-! The command frame encoder (41_encoder.md): the reference encoder's frame (R110, R111), the words, errors and next
states of the encoder's operations (R112 to R115), and the port's frame, which is the reference's (R116). -/

namespace Sys2Proof.Machine

/-! ## The reference encoder (R110) -/

theorem encodeCommand_of_gt {p : List Byte} (large : 65535 < p.length) : encodeCommand p = .error .sizeOverflow :=
  if_pos large

theorem encodeCommand_of_le {p : List Byte} (fits : p.length ≤ 65535) :
    encodeCommand p =
      .ok ([0xAA, BitVec.ofNat 8 (p.length / 256), BitVec.ofNat 8 (p.length % 256)] ++ p ++ [crc8 p]) := by
  have high : p.length >>> 8 = p.length / 256 := Nat.shiftRight_eq_div_pow p.length 8
  have low : BitVec.ofNat 8 p.length = BitVec.ofNat 8 (p.length % 256) := by
    apply BitVec.eq_of_toNat_eq
    simp
  rw [← low, ← high]
  exact if_neg (Nat.not_lt.mpr fits)

theorem length_le_of_encodeCommand {p f : List Byte} (frame : encodeCommand p = .ok f) : p.length ≤ 65535 := by
  by_contra large
  rw [encodeCommand_of_gt (Nat.lt_of_not_le large)] at frame
  cases frame

/-! ## `ENC.HDR` (R112) -/

section
variable {s : State}

/-- The header is three bytes on TX, the length high byte first. -/
theorem State.emitHeader_eq (len : BitVec 16) (s : State) : s.emitHeader len =
    { s with tx := s.tx ++ [0xAA, BitVec.ofNat 8 (len.toNat / 256), BitVec.ofNat 8 (len.toNat % 256)] } := by
  have high : len.extractLsb' 8 8 = BitVec.ofNat 8 (len.toNat / 256) :=
    congrArg (BitVec.ofNat 8) (Nat.shiftRight_eq_div_pow len.toNat 8)
  have low : len.extractLsb' 0 8 = BitVec.ofNat 8 (len.toNat % 256) := by
    apply BitVec.eq_of_toNat_eq
    simp
  simp [State.emitHeader, State.emitTx, high, low]

theorem exec_encHdr_empty (idle : s.encOpen = false) : exec (.encHdr 0) s = .next
    { s with tx := s.tx ++ [0xAA, 0x00, 0x00, 0x00], encCrc := 0x00, encRem := 0, results := s.results ++ [0] } := by
  simp [exec, execEncHdr, idle, State.emitHeader_eq, State.setEnc, State.emitTx, State.ret]

theorem exec_encHdr_nonempty {len : BitVec 16} (idle : s.encOpen = false) (nonempty : len ≠ 0) :
    exec (.encHdr len) s = .next
      { s with tx := s.tx ++ [0xAA, BitVec.ofNat 8 (len.toNat / 256), BitVec.ofNat 8 (len.toNat % 256)],
               encCrc := 0x00, encRem := len, encOpen := true, results := s.results ++ [0] } := by
  simp only [exec, execEncHdr, idle, Bool.false_eq_true, if_false, nonempty, State.emitHeader_eq]
  rfl

/-! ## `ENC.BYTE` (R113) -/

theorem exec_encByte_last (b : Byte) (opened : s.encOpen = true) (one : s.encRem.toNat = 1) :
    exec (.encByte b) s = .next
      { s with tx := s.tx ++ [b, crc8Byte s.encCrc b], encCrc := crc8Byte s.encCrc b, encRem := 0,
               encOpen := false, results := s.results ++ [0] } := by
  have rem : s.encRem - 1 = 0 := by bv_omega
  simp only [exec, execEncByte, opened, rem, if_true]
  simp [State.setEnc, State.emitTx, State.ret]

theorem exec_encByte_more (b : Byte) (opened : s.encOpen = true) (more : 1 < s.encRem.toNat) :
    exec (.encByte b) s = .next
      { s with tx := s.tx ++ [b], encCrc := crc8Byte s.encCrc b,
               encRem := BitVec.ofNat 16 (s.encRem.toNat - 1), results := s.results ++ [0] } := by
  have rem : s.encRem - 1 = BitVec.ofNat 16 (s.encRem.toNat - 1) := by bv_omega
  have waits : BitVec.ofNat 16 (s.encRem.toNat - 1) ≠ 0 := by bv_omega
  simp only [exec, execEncByte, opened, rem, if_true, if_neg waits]
  rfl

end

/-! ## `ENC.RD` (R115) -/

/-- The result of `ENC.RD`, its fields put in their places by OR. -/
theorem exec_encRd (s : State) : exec .encRd s = .next { s with results := s.results ++
    [BitVec.ofNat 64 (s.encCrc.toNat <<< 24 ||| s.encOpen.toNat <<< 16 ||| s.encRem.toNat)] } := by
  have fields : (s.encCrc ++ 0#7 ++ flag s.encOpen ++ s.encRem).toNat =
      s.encCrc.toNat <<< 24 ||| s.encOpen.toNat <<< 16 ||| s.encRem.toNat := by
    simp only [BitVec.toNat_append, flag, BitVec.toNat_ofBool, BitVec.toNat_ofNat, Nat.zero_mod, Nat.or_zero,
      Nat.shiftLeft_or_distrib, ← Nat.shiftLeft_add]
  rw [← fields, BitVec.ofNat_toNat]
  rfl

/-! ## The port's frame (R116) -/

/-- The payload bytes of an open frame that waits for exactly them: they go to TX, the CRC byte follows them, and the
encoder is idle. -/
theorem execAll_encBytes {p : List Byte} (nonempty : p ≠ []) {s : State} (opened : s.encOpen = true)
    (rem : s.encRem.toNat = p.length) : execAll (p.map .encByte) s = .next
      { s with tx := s.tx ++ p ++ [p.foldl crc8Byte s.encCrc], encOpen := false, encRem := 0,
               encCrc := p.foldl crc8Byte s.encCrc, results := s.results ++ List.replicate p.length 0 } := by
  induction p generalizing s with
  | nil => exact absurd rfl nonempty
  | cons b p ih =>
    rw [List.map_cons]
    cases p with
    | nil =>
      rw [execAll_cons _ (exec_encByte_last b opened rem)]
      simp [execAll]
    | cons b' p =>
      rw [List.length_cons] at rem
      have rest : (BitVec.ofNat 16 (s.encRem.toNat - 1)).toNat = (b' :: p).length := by
        rw [BitVec.toNat_ofNat, rem]
        have := s.encRem.isLt
        omega
      rw [execAll_cons _ (exec_encByte_more b opened (by simp [rem])), ih (List.cons_ne_nil b' p)]
      · simp [List.replicate_succ]
      · exact opened
      · exact rest

/-- `enc.frame` from an idle encoder emits the frame of R110, every result being 0. -/
theorem execAll_frameOps {p f : List Byte} (frame : encodeCommand p = .ok f) {s : State} (idle : s.encOpen = false) :
    execAll (frameOps p) s = .next
      { s with tx := s.tx ++ f, encOpen := false, encRem := 0, encCrc := crc8 p,
               results := s.results ++ List.replicate (p.length + 1) 0 } := by
  have fits : p.length ≤ 65535 := length_le_of_encodeCommand frame
  rw [encodeCommand_of_le fits] at frame
  cases frame
  rcases eq_or_ne p [] with rfl | nonempty
  · show execAll [.encHdr 0] s = _
    rw [execAll_cons _ (exec_encHdr_empty idle)]
    simp [execAll, crc8, idle]
  · have positive : 0 < p.length := List.length_pos_iff.mpr nonempty
    have len : (BitVec.ofNat 16 p.length).toNat = p.length := by
      rw [BitVec.toNat_ofNat]
      omega
    have nonzero : BitVec.ofNat 16 p.length ≠ 0 := by bv_omega
    rw [frameOps, execAll_cons _ (exec_encHdr_nonempty idle nonzero), execAll_encBytes nonempty rfl len, len,
      crc8_eq_foldl]
    simp [List.replicate_succ]

/-! ## Operations of other units in between (10_state.md R26) -/

/-- Equal in all that an encoder operation reads or writes but the status and the results. -/
structure SameEncoder (s u : State) : Prop where
  encOpen : s.encOpen = u.encOpen
  encRem : s.encRem = u.encRem
  encCrc : s.encCrc = u.encCrc
  tx : s.tx = u.tx

/-- What an encoder operation does to the encoder and TX depends on nothing else. -/
theorem exec_sameEncoder {i : Instr} (enc : isEnc i = true) {s u : State} (h : SameEncoder s u) :
    ∃ t v, exec i s = .next t ∧ exec i u = .next v ∧ SameEncoder t v := by
  cases i with
  | encHdr len =>
    simp only [exec, execEncHdr, ← h.encOpen]
    split
    · exact ⟨_, _, rfl, rfl, h.encOpen, h.encRem, h.encCrc, h.tx⟩
    · split
      · exact ⟨_, _, rfl, rfl, rfl, rfl, rfl, by simp [h.tx]⟩
      · exact ⟨_, _, rfl, rfl, rfl, rfl, rfl, by simp [h.tx]⟩
  | encByte b =>
    simp only [exec, execEncByte, ← h.encOpen, ← h.encRem, ← h.encCrc]
    split
    · split
      · exact ⟨_, _, rfl, rfl, rfl, rfl, rfl, by simp [h.tx]⟩
      · exact ⟨_, _, rfl, rfl, rfl, rfl, rfl, by simp [h.tx]⟩
    · exact ⟨_, _, rfl, rfl, h.encOpen, h.encRem, h.encCrc, h.tx⟩
  | encAbort => exact ⟨_, _, rfl, rfl, rfl, rfl, rfl, h.tx⟩
  | encRd => exact ⟨_, _, rfl, rfl, h.encOpen, h.encRem, h.encCrc, h.tx⟩
  | _ => cases enc

/-- A run does to the encoder and TX what its encoder operations alone do. -/
theorem execAll_filter_isEnc (is : List Instr) {s u : State} (h : SameEncoder s u) :
    ∃ t v, execAll is s = .next t ∧ execAll (is.filter isEnc) u = .next v ∧ SameEncoder t v := by
  induction is generalizing s u with
  | nil => exact ⟨s, u, rfl, rfl, h⟩
  | cons i is ih =>
    cases enc : isEnc i with
    | true =>
      obtain ⟨t, v, ht, hv, htv⟩ := exec_sameEncoder enc h
      rw [List.filter_cons_of_pos enc, execAll_cons _ ht, execAll_cons _ hv]
      exact ih htv
    | false =>
      obtain ⟨t, ht, effect⟩ := exec_opEffect i s
      obtain ⟨hopen, hrem, hcrc, htx⟩ := effect.encoder_eq enc
      rw [List.filter_cons_of_neg (by simp [enc]), execAll_cons _ ht]
      exact ih ⟨hopen.trans h.encOpen, hrem.trans h.encRem, hcrc.trans h.encCrc, htx.trans h.tx⟩

/-! ## The statements -/

/-- Settles O34: the header opens a frame that waits for exactly the payload's bytes; an interleaved run does to the
encoder and TX what its encoder operations do. -/
theorem encoderPortEqualsReference : Obligations.EncoderPortEqualsReference := by
  intro p f frame
  refine ⟨fun s idle => execAll_frameOps frame idle, fun s is idle encOps => ?interleaved⟩
  case interleaved =>
    obtain ⟨t, v, ht, hv, h⟩ := execAll_filter_isEnc is (s := s) (u := s) ⟨rfl, rfl, rfl, rfl⟩
    rw [encOps, execAll_frameOps frame idle] at hv
    cases hv
    exact ⟨t, ht, h.tx, h.encOpen, h.encRem, h.encCrc⟩

/-- Settles O33: the laws read off the frame written out; the length's two bytes are its quotient and its
remainder by 256. -/
theorem commandFrameLaws : Obligations.CommandFrameLaws := by
  refine ⟨fun _ => encodeCommand_of_gt,
    fun p fits => ⟨_, encodeCommand_of_le fits, ?length, rfl, ?size, ?payload, ?crc⟩, rfl⟩
  case length => simp
  case size =>
    have high : p.length / 256 < 256 := by omega
    simp [Nat.mod_eq_of_lt high, Nat.div_add_mod']
  case payload => simp
  case crc => simp

/-- Settles O29: the row of `ENC.HDR` compares the session field with 0; the three cases of R112 are the branches of the
operation. -/
theorem encHdrRule : Obligations.EncHdrRule := by
  refine ⟨fun len => ?word, fun _ opcode field => ?unused, fun len _ => exec_encHdr_busy len,
    fun _ => exec_encHdr_empty, fun _ _ => exec_encHdr_nonempty⟩
  case word =>
    have codes : mkWord 2 0 0 0 ||| ((0x00 : Byte).setWidth 32 <<< 16) = 0x20000000#32 := by decide
    rw [encode, mkWord_eq_or, codes]
  case unused =>
    exact unusedFieldRaises_of_field (r := encRows[0]) (by simp [opcodeTable, encRows])
      (opcode.trans (by decide)) field (by decide) (by decide)

/-- Settles O30: the row of `ENC.BYTE` leaves only the byte free; the three cases of R113 are the branches of the
operation. -/
theorem encByteRule : Obligations.EncByteRule := by
  refine ⟨fun b => ?word, fun _ opcode field => ?unused, fun b _ => exec_encByte_idle b,
    fun b _ => exec_encByte_last b, fun b _ => exec_encByte_more b⟩
  case word =>
    have codes : mkWord 2 1 0 0 ||| ((0x00 : Byte).setWidth 32 <<< 16) = 0x21000000#32 := by decide
    rw [encode, mkWord_eq_or, setWidth_immByte, codes]
  case unused =>
    exact unusedFieldRaises_of_field (r := encRows[1]) (by simp [opcodeTable, encRows])
      (opcode.trans (by decide)) field (by decide) (by decide)

/-- Settles O31: the row of `ENC.ABORT` compares all 24 bits below the codes with 0. -/
theorem encAbortRule : Obligations.EncAbortRule :=
  ⟨by decide,
    fun _ opcode field => unusedFieldRaises_of_field (r := encRows[2]) (by simp [opcodeTable, encRows])
      (opcode.trans (by decide)) field (by decide) (by decide),
    fun _ => rfl⟩

/-- Settles O32: `ENC.RD` returns the encoder's elements at their places, and nothing else changes. -/
theorem encRdRule : Obligations.EncRdRule :=
  ⟨by decide,
    fun _ opcode field => unusedFieldRaises_of_field (r := encRows[3]) (by simp [opcodeTable, encRows])
      (opcode.trans (by decide)) field (by decide) (by decide),
    exec_encRd⟩

/-- Settles O35: the port's frame is the reference's. -/
theorem startMonitoringFrame : Obligations.StartMonitoringFrame := by
  have reference : encodeCommand [0x08] = .ok [0xAA, 0x00, 0x01, 0x08, 0xB3] := rfl
  exact ⟨reference, rfl, fun _ idle => ⟨_, execAll_frameOps reference idle, rfl⟩⟩

end Sys2Proof.Machine
end

section
/-! The reassembler (42_reassembler.md): the words, errors and next states of its operations (R133 to R139); then runs
of `RSM.FIRST` and `RSM.NEXT` over the bytes of chunks, which do what `rsm_ref` does (R136, R140, R143). -/

namespace Sys2Proof.Machine

/-! ## Words with a session field (R60, R64) -/

/-- A word with a session and no immediate, its fields put in their places by OR. -/
theorem mkWord_session (unit func : BitVec 4) (ch : Byte) :
    mkWord unit func ch 0 = mkWord unit func 0 0 ||| (ch.setWidth 32 <<< 16) := by
  rw [mkWord_eq_or]
  exact BitVec.or_zero

/-- A word with a session and a byte, its fields put in their places by OR. -/
theorem mkWord_sessionByte (unit func : BitVec 4) (ch b : Byte) :
    mkWord unit func ch (immByte b) = mkWord unit func 0 0 ||| (ch.setWidth 32 <<< 16) ||| b.setWidth 32 := by
  rw [mkWord_eq_or, setWidth_immByte]

/-! ## The push of a byte (R133) -/

/-- The push of a frame's last byte, its registers and its event written out. -/
theorem rsmPush_completes_eq {ch b : Byte} {c : Session} (s : State) {f : List Byte} (full : c.buf.length = 22)
    (frame : f = c.buf ++ [b]) : rsmPush ch c b s =
      { s with sess := s.sess.set ch.toNat
                 { buf := [], drop := true, vc := le48 f 5, ic := le48 f 11, wc := le48 f 17, cnt := c.cnt + 1 },
               smp := s.smp ++ [{ ch := ch, frame := f, vcode := le48 f 5, icode := le48 f 11, wcode := le48 f 17,
                                  vbits := bits64 (le48 f 5) 24, ibits := bits64 (le48 f 11) 30,
                                  wbits := bits64 (le48 f 17) 24 }] } := by
  rw [rsmPush_completes ch c b s full, frame]
  rfl

/-- A buffer of at most 22 bytes that a byte does not complete stays one. -/
theorem length_concat_le {buf : List Byte} (short : buf.length ≤ 22) (room : buf.length ≠ 22) (b : Byte) :
    (buf ++ [b]).length ≤ 22 := by
  rw [List.length_append, List.length_singleton]
  exact Nat.lt_of_le_of_ne short room

/-! ## The start of a chunk (R131, R134) -/

theorem Session.startChunk_of_ne {b : Byte} (c : Session) (other : b ≠ MARKER) :
    c.startChunk b = { c with drop := false } := by
  simp only [startChunk, if_neg other]

/-- An empty buffer stays empty at the start of a chunk. -/
theorem Session.startChunk_buf_of_nil {c : Session} (b : Byte) (empty : c.buf = []) : (c.startChunk b).buf = [] := by
  simp only [startChunk, empty, ite_self]

/-- A buffer of at most 22 bytes is one at the start of a chunk too. -/
theorem Session.startChunk_buf_length_le {c : Session} (b : Byte) (short : c.buf.length ≤ 22) :
    (c.startChunk b).buf.length ≤ 22 := by
  rw [startChunk]
  split
  · exact Nat.zero_le 22
  · exact short

/-! ## The operations on a session the block has -/

/-- The result of `RSM.RD` for a drop bit and a length (R137). -/
def rsmRdResult (drop : Bool) (length : Nat) : Res := BitVec.ofNat 64 (drop.toNat <<< 8 ||| length)

section
variable {ch : Byte} {s : State} (inRange : ch.toNat < s.nSess)
include inRange

theorem exec_rsmFirst (b : Byte) :
    exec (.rsmFirst ch b) s = .next ((rsmPush ch ((s.ctx ch).startChunk b) b s).ret 0) := by
  rw [exec, execRsmFirst, withSession_of_lt _ inRange]

theorem exec_rsmNext_kept (b : Byte) (kept : (s.ctx ch).drop = false) :
    exec (.rsmNext ch b) s = .next ((rsmPush ch (s.ctx ch) b s).ret 0) := by
  simp only [exec, execRsmNext, withSession_of_lt _ inRange, kept, Bool.false_eq_true, if_false]

theorem exec_rsmNext_dropped (b : Byte) (dropping : (s.ctx ch).drop = true) :
    exec (.rsmNext ch b) s = .next (s.ret 0) := by
  simp only [exec, execRsmNext, withSession_of_lt _ inRange, dropping, if_true]

theorem exec_rsmClr :
    exec (.rsmClr ch) s = .next ((s.setCtx ch { s.ctx ch with buf := [], drop := false }).ret 0) := by
  rw [exec, execRsmClr, withSession_of_lt _ inRange]

theorem exec_rsmRd : exec (.rsmRd ch) s = .next (s.ret (rsmRdResult (s.ctx ch).drop (s.ctx ch).buf.length)) := by
  rw [exec, execRsmRd, withSession_of_lt _ inRange, rsmRdResult]

theorem exec_rsmRdbuf (k : Byte) :
    exec (.rsmRdbuf ch k) s = .next (s.ret (((s.ctx ch).buf.getD k.toNat 0).setWidth 64)) := by
  rw [exec, execRsmRdbuf, withSession_of_lt _ inRange]

end

/-- The fields of the result of `RSM.RD` (R137): the length in bits 4:0, the drop bit in bit 8, all others 0. -/
theorem rsmRdResult_fields : ∀ (drop : Bool) (n : Fin 23),
    ((rsmRdResult drop n).extractLsb' 0 5).toNat = n ∧
    (rsmRdResult drop n).extractLsb' 5 3 = 0 ∧
    (rsmRdResult drop n).getLsbD 8 = drop ∧
    (rsmRdResult drop n).extractLsb' 9 55 = 0 := by decide

/-! ## The reference step (R130) -/

/-- From an empty buffer the bytes of a chunk are kept until there are enough for a frame. -/
theorem rsmRef_nil_of_short {chunk : List Byte} (short : chunk.length ≤ 22) : rsmRef [] chunk = (chunk, none) := by
  cases chunk with
  | nil => rfl
  | cons b rest =>
    have h : ¬ FRAME_LEN ≤ (b :: rest).length := Nat.not_le.mpr (Nat.lt_succ_of_le short)
    simp only [rsmRef, List.nil_append, ite_self, if_neg h]

/-- From an empty buffer a chunk of 23 bytes or more completes the frame of its first 23 bytes. -/
theorem rsmRef_nil_of_long {chunk : List Byte} (long : 23 ≤ chunk.length) :
    rsmRef [] chunk = ([], some (chunk.take 23)) := by
  cases chunk with
  | nil => cases long
  | cons b rest => simp only [rsmRef, List.nil_append, ite_self, if_pos long]

/-- A chunk that does not begin with the marker acts as if the bytes kept were its own first bytes. -/
theorem rsmRef_of_ne_marker (buf : List Byte) {b : Byte} (rest : List Byte) (other : b ≠ MARKER) :
    rsmRef buf (b :: rest) = rsmRef [] (buf ++ b :: rest) := by
  rcases Nat.lt_or_ge (buf ++ b :: rest).length 23 with short | long
  · rw [rsmRef_nil_of_short (Nat.le_of_lt_succ short)]
    simp only [rsmRef, if_neg other, if_neg (Nat.not_le.mpr short)]
  · rw [rsmRef_nil_of_long long]
    simp only [rsmRef, if_neg other, if_pos long]

/-- Any chunk acts as if the bytes kept at its start were its own first bytes. -/
theorem rsmRef_eq_startChunk (c : Session) (b : Byte) (rest : List Byte) :
    rsmRef c.buf (b :: rest) = rsmRef [] ((c.startChunk b).buf ++ b :: rest) := by
  rcases eq_or_ne b MARKER with rfl | other
  · rfl
  · rw [Session.startChunk_of_ne c other, rsmRef_of_ne_marker c.buf rest other]

/-- The reference step keeps at most 22 bytes. -/
theorem rsmRef_nil_length_le (chunk : List Byte) : (rsmRef [] chunk).1.length ≤ 22 := by
  rcases Nat.lt_or_ge chunk.length 23 with short | long
  · rw [rsmRef_nil_of_short (Nat.le_of_lt_succ short)]
    exact Nat.le_of_lt_succ short
  · rw [rsmRef_nil_of_long long]
    exact Nat.zero_le 22

/-- Chunks that split the rest of a frame complete it, when the first chunk leaves the bytes `acc`. -/
theorem rsmRefAll_of_split {buf chunk acc : List Byte} {more : List (List Byte)}
    (start : rsmRef buf chunk = rsmRef [] acc) (later : ∀ c ∈ more, c ≠ [] ∧ c.head? ≠ some 0xAA)
    (whole : (acc ++ more.flatten).length = 23) :
    rsmRefAll buf (chunk :: more) = ([], [acc ++ more.flatten]) := by
  induction more generalizing buf chunk acc with
  | nil =>
    rw [List.flatten_nil, List.append_nil] at whole ⊢
    simp [rsmRefAll, start, rsmRef_nil_of_long whole.ge, whole]
  | cons c more ih =>
    obtain ⟨⟨nonempty, notMarker⟩, laterMore⟩ := List.forall_mem_cons.mp later
    obtain ⟨b, rest, rfl⟩ := List.exists_cons_of_ne_nil nonempty
    have short : acc.length ≤ 22 := by
      simp only [List.flatten_cons, List.length_append, List.length_cons] at whole
      omega
    have kept : rsmRef acc (b :: rest) = rsmRef [] (acc ++ b :: rest) :=
      rsmRef_of_ne_marker acc rest fun marker => notMarker (congrArg some marker)
    rw [List.flatten_cons, ← List.append_assoc] at whole ⊢
    rw [rsmRefAll, start, rsmRef_nil_of_short short, ih kept laterMore whole]
    rfl

/-! ## What a run leaves of a session (R133, R140) -/

/-- From `s` to `t` session `ch` completed `frames`, in order, and its buffer became `buf`. -/
structure Reassembles (ch : Byte) (buf : List Byte) (frames : List (List Byte)) (s t : State) : Prop where
  sessions : t.nSess = s.nSess
  buffer : (t.ctx ch).buf = buf
  events : t.smp = s.smp ++ frames.map (sampleEvent ch)
  count : (t.ctx ch).cnt = (s.ctx ch).cnt + BitVec.ofNat 32 frames.length

theorem Reassembles.refl (ch : Byte) (s : State) : Reassembles ch (s.ctx ch).buf [] s s :=
  ⟨rfl, rfl, by simp, by simp⟩

theorem Reassembles.trans {ch : Byte} {buf buf' : List Byte} {frames frames' : List (List Byte)} {s t u : State}
    (h : Reassembles ch buf frames s t) (h' : Reassembles ch buf' frames' t u) :
    Reassembles ch buf' (frames ++ frames') s u where
  sessions := h'.sessions.trans h.sessions
  buffer := h'.buffer
  events := by simp [h'.events, h.events]
  count := by simp [h'.count, h.count, BitVec.ofNat_add, BitVec.add_assoc]

section
variable {ch : Byte} {s : State} (inRange : ch.toNat < s.nSess)
include inRange

/-! ### A byte pushed into context `c` of the session -/

theorem ctx_rsmPush_completes {c : Session} (b : Byte) (full : c.buf.length = 22) :
    (rsmPush ch c b s).ctx ch = c.complete (c.buf ++ [b]) := by
  rw [rsmPush_completes ch c b s full, State.ctx_emitSmp, State.ctx_setCtx_self s ch _ inRange]

theorem ctx_rsmPush_appends {c : Session} (b : Byte) (room : c.buf.length ≠ 22) :
    (rsmPush ch c b s).ctx ch = { c with buf := c.buf ++ [b] } := by
  rw [rsmPush_appends ch c b s room, State.ctx_setCtx_self s ch _ inRange]

theorem reassembles_rsmPush_completes {c : Session} (count : c.cnt = (s.ctx ch).cnt) (b : Byte)
    (full : c.buf.length = 22) : Reassembles ch [] [c.buf ++ [b]] s ((rsmPush ch c b s).ret 0) where
  sessions := by simp [rsmPush_completes ch c b s full]
  buffer := by simp [ctx_rsmPush_completes inRange b full, Session.complete]
  events := by simp [rsmPush_completes ch c b s full, State.emitSmp]
  count := by simp [ctx_rsmPush_completes inRange b full, Session.complete, count]

theorem reassembles_rsmPush_appends {c : Session} (count : c.cnt = (s.ctx ch).cnt) (b : Byte)
    (room : c.buf.length ≠ 22) : Reassembles ch (c.buf ++ [b]) [] s ((rsmPush ch c b s).ret 0) where
  sessions := by simp [rsmPush_appends ch c b s room]
  buffer := by simp [ctx_rsmPush_appends inRange b room]
  events := by simp [rsmPush_appends ch c b s room]
  count := by simp [ctx_rsmPush_appends inRange b room, count]

/-- The first byte of a chunk is the only one kept when the buffer was empty. -/
theorem exec_rsmFirst_of_nil (empty : (s.ctx ch).buf = []) (b : Byte) :
    ∃ t, exec (.rsmFirst ch b) s = .next t ∧ (t.ctx ch).buf = [b] ∧ (t.ctx ch).drop = false ∧ t.smp = s.smp := by
  have discarded : ((s.ctx ch).startChunk b).buf = [] := Session.startChunk_buf_of_nil b empty
  have room : ((s.ctx ch).startChunk b).buf.length ≠ 22 := by simp [discarded]
  have pushed := reassembles_rsmPush_appends inRange (c := (s.ctx ch).startChunk b) rfl b room
  refine ⟨_, exec_rsmFirst inRange b, ?_, congrArg Session.drop (ctx_rsmPush_appends inRange b room), ?_⟩
  · rw [pushed.buffer, discarded, List.nil_append]
  · rw [pushed.events, List.map_nil, List.append_nil]

/-! ### The bytes of a chunk -/

/-- The bytes of a chunk after its frame are dropped (R136). -/
theorem execAll_rsmNext_dropped (dropping : (s.ctx ch).drop = true) (rest : List Byte) :
    execAll (rest.map (.rsmNext ch)) s = .next { s with results := s.results ++ List.replicate rest.length 0 } := by
  induction rest generalizing s with
  | nil => simp [execAll]
  | cons b rest ih =>
    rw [List.map_cons, execAll_cons _ (exec_rsmNext_dropped inRange b dropping), ih (s := s.ret 0) inRange dropping]
    simp [List.replicate_succ, State.ret]

/-- Outcome `o` of the bytes of one chunk, begun in `s`, is the answer `r` of the reference step, and the drop bit says
whether a frame was completed. -/
def AnswersLike (ch : Byte) (r : List Byte × Option (List Byte)) (s : State) (o : Outcome) : Prop :=
  ∃ t, o = .next t ∧ Reassembles ch r.1 r.2.toList s t ∧ (t.ctx ch).drop = r.2.isSome

/-- A byte that completes a frame, then the rest of its chunk: the rest is dropped (R136). -/
theorem execAll_rsmPush_full {c : Session} (count : c.cnt = (s.ctx ch).cnt) (full : c.buf.length = 22) (b : Byte)
    (rest : List Byte) : AnswersLike ch (rsmRef [] (c.buf ++ b :: rest)) s
      (execAll (rest.map (.rsmNext ch)) ((rsmPush ch c b s).ret 0)) := by
  have long : 23 ≤ (c.buf ++ b :: rest).length := by
    rw [List.length_append, full, List.length_cons]
    omega
  have frame : (c.buf ++ b :: rest).take 23 = c.buf ++ [b] := by simp [List.take_append, full]
  have pushed := reassembles_rsmPush_completes inRange count b full
  have dropping : (((rsmPush ch c b s).ret 0).ctx ch).drop = true :=
    congrArg Session.drop (ctx_rsmPush_completes inRange b full)
  rw [rsmRef_nil_of_long long, frame]
  exact ⟨_, execAll_rsmNext_dropped (pushed.sessions ▸ inRange) dropping rest,
    ⟨pushed.sessions, pushed.buffer, pushed.events, pushed.count⟩, dropping⟩

/-- A byte of a chunk, then the rest of the chunk: the outcome is what `rsm_ref` makes of the bytes kept and these as
one chunk. -/
theorem execAll_rsmPush {c : Session} (kept : c.drop = false) (count : c.cnt = (s.ctx ch).cnt)
    (short : c.buf.length ≤ 22) (b : Byte) (rest : List Byte) :
    AnswersLike ch (rsmRef [] (c.buf ++ b :: rest)) s
      (execAll (rest.map (.rsmNext ch)) ((rsmPush ch c b s).ret 0)) := by
  induction rest generalizing s c b with
  | nil =>
    rcases eq_or_ne c.buf.length 22 with full | room
    · exact execAll_rsmPush_full inRange count full b []
    · have few : (c.buf ++ [b]).length ≤ 22 := length_concat_le short room b
      rw [rsmRef_nil_of_short few]
      exact ⟨_, rfl, reassembles_rsmPush_appends inRange count b room,
        (congrArg Session.drop (ctx_rsmPush_appends inRange b room)).trans kept⟩
  | cons b' rest ih =>
    rcases eq_or_ne c.buf.length 22 with full | room
    · exact execAll_rsmPush_full inRange count full b (b' :: rest)
    · have pushed := reassembles_rsmPush_appends inRange count b room
      have ctx : ((rsmPush ch c b s).ret 0).ctx ch = { c with buf := c.buf ++ [b] } :=
        ctx_rsmPush_appends inRange b room
      have few : (c.buf ++ [b]).length ≤ 22 := length_concat_le short room b
      have inRange' := pushed.sessions ▸ inRange
      obtain ⟨t, run, after, drop⟩ := ih inRange' (c := { c with buf := c.buf ++ [b] }) kept (by rw [ctx]) few b'
      rw [List.append_assoc, List.singleton_append] at after drop
      refine ⟨t, ?_, pushed.trans after, drop⟩
      rw [List.map_cons, execAll_cons _ (exec_rsmNext_kept inRange' b' (by rw [ctx]; exact kept)), ctx, run]

/-- The operations of a chunk do what `rsm_ref` does (R140), as long as its first byte finds a buffer of at most 22
bytes. -/
theorem execAll_chunkOps {b : Byte} (short : ((s.ctx ch).startChunk b).buf.length ≤ 22) (rest : List Byte) :
    AnswersLike ch (rsmRef (s.ctx ch).buf (b :: rest)) s (execAll (chunkOps ch (b :: rest)) s) := by
  rw [rsmRef_eq_startChunk, chunkOps, execAll_cons _ (exec_rsmFirst inRange b)]
  exact execAll_rsmPush inRange (c := (s.ctx ch).startChunk b) rfl rfl short b rest

end

/-- The operations of a sequence of chunks do what repeated `rsm_ref` does (R140), as long as the first byte finds a
buffer of at most 22 bytes. -/
theorem execAll_chunks {ch : Byte} {s : State} (inRange : ch.toNat < s.nSess) (chunks : List (List Byte))
    (short : ∀ b ∈ chunks.flatten.head?, ((s.ctx ch).startChunk b).buf.length ≤ 22) :
    ∃ t, execAll (chunks.flatMap (chunkOps ch)) s = .next t ∧
      Reassembles ch (rsmRefAll (s.ctx ch).buf chunks).1 (rsmRefAll (s.ctx ch).buf chunks).2 s t := by
  induction chunks generalizing s with
  | nil => exact ⟨s, rfl, .refl ch s⟩
  | cons chunk chunks ih =>
    cases chunk with
    | nil => exact ih inRange short
    | cons b rest =>
      obtain ⟨t, run, head, -⟩ := execAll_chunkOps inRange (short b rfl) rest
      have kept : (t.ctx ch).buf.length ≤ 22 := by
        rw [head.buffer, rsmRef_eq_startChunk]
        exact rsmRef_nil_length_le _
      obtain ⟨u, runs, tail⟩ := ih (head.sessions ▸ inRange) fun b' _ => Session.startChunk_buf_length_le b' kept
      rw [head.buffer] at tail
      exact ⟨u, (execAll_append _ run).trans runs, head.trans tail⟩

/-! ## The statements -/

/-- Settles O41: a chunk does what `rsm_ref` does, and a sequence of chunks by induction. -/
theorem reassemblerEqualsReference : Obligations.ReassemblerEqualsReference := by
  intro ch s inRange short
  refine ⟨fun chunks => ?sequence, fun chunk nonempty => ?chunk⟩
  case sequence =>
    obtain ⟨t, run, after⟩ := execAll_chunks inRange chunks fun b _ => Session.startChunk_buf_length_le b short
    exact ⟨t, run, after.buffer, after.events⟩
  case chunk =>
    obtain ⟨b, rest, rfl⟩ := List.exists_cons_of_ne_nil nonempty
    obtain ⟨t, run, after, drop⟩ := execAll_chunkOps inRange (Session.startChunk_buf_length_le b short) rest
    exact ⟨t, run, after.buffer, after.events, drop⟩

/-- Settles O42: a dropped byte returns 0 and changes nothing else; the invariant says that the completion left the
buffer empty, so the next chunk starts with its own byte. -/
theorem restOfChunkIsDropped : Obligations.RestOfChunkIsDropped := by
  intro ch s rest inv inRange dropping
  have dropped := execAll_rsmNext_dropped inRange dropping rest
  refine ⟨dropped, fun b => ?chunk⟩
  case chunk =>
    have empty : (s.ctx ch).buf = [] := (inv.contexts _ (s.ctx_mem inRange)).drop dropping
    obtain ⟨t, head, after⟩ :=
      exec_rsmFirst_of_nil (s := { s with results := s.results ++ List.replicate rest.length 0 }) inRange empty b
    exact ⟨t, (execAll_append _ dropped).trans (execAll_cons _ head), after⟩

/-- Settles O43: the marker discards the prior buffer, so the reference completes the frame and no other. -/
theorem splitsYieldTheFrame : Obligations.SplitsYieldTheFrame := by
  intro ch s first more inRange marker later whole
  obtain ⟨rest, rfl⟩ := List.head?_eq_some_iff.mp marker
  have frames : rsmRefAll (s.ctx ch).buf ((MARKER :: rest) :: more) = ([], [MARKER :: rest ++ more.flatten]) :=
    rsmRefAll_of_split rfl later whole
  have short : ∀ b ∈ (((MARKER :: rest) :: more).flatten).head?, ((s.ctx ch).startChunk b).buf.length ≤ 22 := by
    rintro b ⟨⟩
    exact Nat.zero_le 22
  obtain ⟨t, run, after⟩ := execAll_chunks inRange _ short
  rw [frames] at after
  exact ⟨t, run, after.events, after.buffer, after.count⟩

/-- Settles O36: the marker, another byte, and the byte after 22 are the branches of the operation. -/
theorem rsmFirstRule : Obligations.RsmFirstRule := by
  refine ⟨fun ch b => mkWord_sessionByte 3 0 ch b, fun _ opcode field => ?unused, fun _ _ _ => exec_badCh rfl,
    fun ch s inRange => ?marker, fun ch b s inRange other room => ?appends,
    fun ch b s f inRange other full frame => ?completes⟩
  case unused =>
    exact unusedFieldRaises_of_field (r := rsmRows[0]) (by simp [opcodeTable, rsmRows])
      (opcode.trans (by decide)) field (by decide) (by decide)
  case marker =>
    rw [exec_rsmFirst inRange]
    rfl
  case appends =>
    rw [exec_rsmFirst inRange, Session.startChunk_of_ne _ other,
      rsmPush_appends ch { s.ctx ch with drop := false } b s room]
    rfl
  case completes =>
    rw [exec_rsmFirst inRange, Session.startChunk_of_ne _ other,
      rsmPush_completes_eq (c := { s.ctx ch with drop := false }) s full frame]
    rfl

/-- Settles O37: a dropped byte, a byte kept, and the byte after 22 are the branches of the operation. -/
theorem rsmNextRule : Obligations.RsmNextRule := by
  refine ⟨fun ch b => mkWord_sessionByte 3 1 ch b, fun _ opcode field => ?unused, fun _ _ _ => exec_badCh rfl,
    fun ch b s inRange => exec_rsmNext_dropped inRange b, fun ch b s inRange kept room => ?appends,
    fun ch b s f inRange kept full frame => ?completes⟩
  case unused =>
    exact unusedFieldRaises_of_field (r := rsmRows[1]) (by simp [opcodeTable, rsmRows])
      (opcode.trans (by decide)) field (by decide) (by decide)
  case appends =>
    rw [exec_rsmNext_kept inRange b kept, rsmPush_appends ch _ b s room]
    rfl
  case completes =>
    rw [exec_rsmNext_kept inRange b kept, rsmPush_completes_eq s full frame]
    rfl

/-- Settles O38: the context is written with its buffer and drop bit cleared, and nothing else changes. -/
theorem rsmClrRule : Obligations.RsmClrRule :=
  ⟨fun ch => mkWord_session 3 2 ch,
    fun _ opcode field => unusedFieldRaises_of_field (r := rsmRows[2]) (by simp [opcodeTable, rsmRows])
      (opcode.trans (by decide)) field (by decide) (by decide),
    fun _ _ => exec_badCh rfl, fun _ _ inRange => exec_rsmClr inRange⟩

/-- Settles O39: the drop bit and the length are at their places in the result, and nothing else changes. -/
theorem rsmRdRule : Obligations.RsmRdRule :=
  ⟨fun ch => mkWord_session 3 3 ch,
    fun _ opcode field => unusedFieldRaises_of_field (r := rsmRows[3]) (by simp [opcodeTable, rsmRows])
      (opcode.trans (by decide)) field (by decide) (by decide),
    fun _ _ => exec_badCh rfl,
    fun _ _ inRange => ⟨_, exec_rsmRd inRange, rfl, fun short => rsmRdResult_fields _ ⟨_, Nat.lt_succ_of_le short⟩⟩⟩

/-- Settles O40: the byte read is the buffer's own below its length and 0 from there on. -/
theorem rsmRdbufRule : Obligations.RsmRdbufRule := by
  refine ⟨fun ch k => mkWord_sessionByte 3 4 ch k, fun _ opcode field => ?unused, fun _ _ _ => exec_badCh rfl,
    fun ch k s b inRange inside => ?inside, fun ch k s inRange above => ?above⟩
  case unused =>
    exact unusedFieldRaises_of_field (r := rsmRows[4]) (by simp [opcodeTable, rsmRows])
      (opcode.trans (by decide)) field (by decide) (by decide)
  case inside =>
    rw [exec_rsmRdbuf inRange, List.getD_eq_getElem?_getD, inside, BitVec.ofNat_toNat]
    rfl
  case above =>
    rw [exec_rsmRdbuf inRange, List.getD_eq_default _ _ above]
    rfl

end Sys2Proof.Machine
end

section
/-! The decoder (43_decoder.md): the six bytes of a field (R151, R152, R154), the binary64 encoding of a code, its
layout and the number it stands for (R156 to R158), and the read operations (R161 to R167). -/

namespace Sys2Proof.Machine

/-! ## Fields (R151, R152, R154) -/

/-- A code below 2^48 has zeros in bits 63:48. -/
theorem extractLsb'_high_of_lt {c : Res} (small : c.toNat < 2 ^ 48) : c.extractLsb' 48 16 = 0 := by
  apply BitVec.eq_of_toNat_eq
  rw [BitVec.extractLsb'_toNat, Nat.shiftRight_eq_div_pow, Nat.div_eq_of_lt small]
  rfl

/-- The field at `o` is its bytes with rising weights. -/
theorem toNat_le48 (f : List Byte) (o : Nat) : (le48 f o).toNat =
    (f.getD o 0).toNat + (f.getD (o + 1) 0).toNat * 2 ^ 8 + (f.getD (o + 2) 0).toNat * 2 ^ 16 +
      (f.getD (o + 3) 0).toNat * 2 ^ 24 + (f.getD (o + 4) 0).toNat * 2 ^ 32 + (f.getD (o + 5) 0).toNat * 2 ^ 40 := by
  rw [le48, BitVec.toNat_setWidth_of_le (by decide)]
  simp only [toNat_append_eq_add]
  ring

/-- The field at `o` does not depend on the bytes before it. -/
theorem le48_congr {f g : List Byte} {n o : Nat} (agree : f.drop n = g.drop n) (begins : n ≤ o) :
    le48 f o = le48 g o := by
  have byte : ∀ j, n ≤ j → f.getD j 0 = g.getD j 0 := by
    intro j hj
    have h := congrArg (·[j - n]?) agree
    simp only [List.getElem?_drop, Nat.add_sub_cancel' hj] at h
    rw [List.getD_eq_getElem?_getD, List.getD_eq_getElem?_getD, h]
  simp only [le48, byte _ begins, byte _ (Nat.le_add_right_of_le begins)]

theorem decodeFrame_congr {f g : List Byte} (agree : f.drop 5 = g.drop 5) : decodeFrame f = decodeFrame g := by
  rw [decodeFrame, decodeFrame, le48_congr agree (by decide : 5 ≤ OFF_V), le48_congr agree (by decide : 5 ≤ OFF_I),
    le48_congr agree (by decide : 5 ≤ OFF_W)]

/-! ## The binary64 layout (R156) -/

section
variable {x : Res} {exp frac : Nat} (layout : x.toNat = exp * 2 ^ 52 + frac) (fracRange : frac < 2 ^ 52)
include layout fracRange

theorem exponent_of_layout (expRange : exp < 2 ^ 11) : (x.extractLsb' 52 11).toNat = exp := by
  rw [BitVec.extractLsb'_toNat, Nat.shiftRight_eq_div_pow]
  omega

theorem fraction_of_layout : (x.extractLsb' 0 52).toNat = frac := by
  rw [BitVec.extractLsb'_toNat, Nat.shiftRight_zero]
  omega

theorem sign_of_layout (expRange : exp < 2 ^ 11) : x.getLsbD 63 = false :=
  Nat.testBit_lt_two_pow (by omega)

/-- The number of a normal encoding with sign 0. -/
theorem f64Value_of_layout (normal : exp ≠ 0) (finite : exp < 2047) :
    f64Value x = some ((2 ^ 52 + frac) * (2 : Rat) ^ ((exp : Int) - 1075)) := by
  have expRange : exp < 2 ^ 11 := finite.trans (by decide)
  simp only [f64Value, exponent_of_layout layout fracRange expRange, fraction_of_layout layout fracRange,
    sign_of_layout layout fracRange expRange, finite.ne, normal, if_false, Bool.false_eq_true, one_mul]

end

/-! ## The encoding of a code (R155 to R157) -/

theorem f64Value_zero : f64Value 0 = some 0 := by
  simp [f64Value]

/-- Code 0 is +0.0 at every scale. -/
theorem bits64_zero (k : Nat) : bits64 0 k = 0 := if_pos rfl

/-- A number with leading 1 at bit `e`, shifted so that it stands at bit 52, is that bit and a fraction below it. -/
theorem shifted_bounds {n e : Nat} (low : 2 ^ e ≤ n) (high : n < 2 ^ (e + 1)) (fits : e ≤ 52) :
    2 ^ 52 ≤ n * 2 ^ (52 - e) ∧ n * 2 ^ (52 - e) < 2 ^ 53 := by
  constructor
  · calc 2 ^ 52 = 2 ^ e * 2 ^ (52 - e) := by rw [← pow_add, Nat.add_sub_cancel' fits]
      _ ≤ n * 2 ^ (52 - e) := Nat.mul_le_mul_right _ low
  · calc n * 2 ^ (52 - e) < 2 ^ (e + 1) * 2 ^ (52 - e) := Nat.mul_lt_mul_of_pos_right high (by positivity)
      _ = 2 ^ 53 := by rw [← pow_add]; congr 1; omega

/-- The encoding of a nonzero code whose leading 1 is bit `e`: the biased exponent and, below it, the fraction. -/
structure Encodes (c : Res) (k e : Nat) : Prop where
  low : 2 ^ e ≤ c.toNat
  high : c.toNat < 2 ^ (e + 1)
  top : e ≤ 47
  layout : (bits64 c k).toNat = (e + 1023 - k) * 2 ^ 52 + (c.toNat * 2 ^ (52 - e) - 2 ^ 52)
  fracRange : c.toNat * 2 ^ (52 - e) - 2 ^ 52 < 2 ^ 52

theorem encodes_log2 {c : Res} (nonzero : c ≠ 0) (small : c.toNat < 2 ^ 48) (k : Nat) :
    Encodes c k c.toNat.log2 := by
  have positive : c.toNat ≠ 0 := fun h => nonzero (BitVec.eq_of_toNat_eq h)
  have low := Nat.log2_self_le positive
  have high : c.toNat < 2 ^ (c.toNat.log2 + 1) := Nat.lt_log2_self
  have top : c.toNat.log2 ≤ 47 := Nat.le_of_lt_succ ((Nat.log2_lt positive).mpr small)
  obtain ⟨lead, bound⟩ := shifted_bounds low high (top.trans (by decide))
  refine ⟨low, high, top, ?_, by omega⟩
  have frac : (c.toNat <<< (52 - c.toNat.log2)) &&& (2 ^ 52 - 1) = c.toNat * 2 ^ (52 - c.toNat.log2) - 2 ^ 52 := by
    rw [Nat.and_two_pow_sub_one_eq_mod, Nat.shiftLeft_eq]
    omega
  rw [bits64, if_neg nonzero]
  simp only [frac]
  rw [← Nat.shiftLeft_add_eq_or_of_lt (by omega), Nat.shiftLeft_eq, BitVec.toNat_ofNat, Nat.mod_eq_of_lt (by omega)]

/-- The number of an encoding, at every scale that keeps it normal, is the code over the scale. -/
theorem f64Value_bits64 {c : Res} (small : c.toNat < 2 ^ 48) {k : Nat} (scale : k ≤ 1022) :
    f64Value (bits64 c k) = some ((c.toNat : Rat) / 2 ^ k) := by
  rcases eq_or_ne c 0 with rfl | nonzero
  · rw [bits64_zero, f64Value_zero]
    simp
  · obtain ⟨low, high, top, layout, fracRange⟩ := encodes_log2 nonzero small k
    generalize c.toNat.log2 = e at *
    have significand : (2 ^ 52 + (c.toNat * 2 ^ (52 - e) - 2 ^ 52 : Nat) : Rat) = c.toNat * 2 ^ (52 - e) := by
      have lead := (shifted_bounds low high (top.trans (by decide))).1
      rw [Nat.cast_sub lead]
      push_cast
      ring
    rw [f64Value_of_layout layout fracRange (by omega) (by omega), significand, Option.some_inj, mul_assoc,
      ← zpow_natCast, ← zpow_add₀ two_ne_zero, div_eq_mul_inv, ← zpow_natCast, ← zpow_neg]
    congr 2
    omega

/-! ## The read operations (R161 to R167) -/

/-- Every opcode from 0x40 to 0x46 is that of a `DEC` row. -/
theorem decRow_of_opcode : ∀ op : BitVec 8, 0x40 ≤ op.toNat → op.toNat ≤ 0x46 →
    ∃ r ∈ decRows, op = r.unit ++ r.func := by
  decide

/-- The `DEC` rows compare the whole of `IMM` with 0. -/
theorem decRows_imm : ∀ r ∈ decRows,
    r.mask.extractLsb' 0 16 = BitVec.allOnes 16 ∧ r.pat.extractLsb' 0 16 = 0 := by
  decide

/-- Operation `i` only reads: it returns `v` of the context of session `ch`. -/
def SessionRead (i : Instr) (ch : Byte) (v : Session → Res) : Prop :=
  ∀ s : State, exec i s = withSession ch s fun c => s.ret (v c)

theorem sessionRead_decRdvc (ch : Byte) : SessionRead (.decRdvc ch) ch fun c => c.vc := fun _ => rfl
theorem sessionRead_decRdic (ch : Byte) : SessionRead (.decRdic ch) ch fun c => c.ic := fun _ => rfl
theorem sessionRead_decRdwc (ch : Byte) : SessionRead (.decRdwc ch) ch fun c => c.wc := fun _ => rfl
theorem sessionRead_decRdvf (ch : Byte) : SessionRead (.decRdvf ch) ch fun c => bits64 c.vc 24 := fun _ => rfl
theorem sessionRead_decRdif (ch : Byte) : SessionRead (.decRdif ch) ch fun c => bits64 c.ic 30 := fun _ => rfl
theorem sessionRead_decRdwf (ch : Byte) : SessionRead (.decRdwf ch) ch fun c => bits64 c.wc 24 := fun _ => rfl
theorem sessionRead_decRdcnt (ch : Byte) : SessionRead (.decRdcnt ch) ch fun c => BitVec.ofNat 64 c.cnt.toNat := by
  intro s
  simp only [BitVec.ofNat_toNat]
  rfl

section
variable {i : Instr} {ch : Byte} {v : Session → Res} (read : SessionRead i ch v)
include read

theorem SessionRead.exec_eq {s : State} (inRange : ch.toNat < s.nSess) :
    exec i s = .next { s with results := s.results ++ [v (s.ctx ch)] } :=
  (read s).trans (withSession_of_lt _ inRange)

theorem SessionRead.exec_init {n : Nat} (c : Config) (inRange : ch.toNat < n) (zero : v Session.reset = 0) :
    exec i (State.init n c) = .next { State.init n c with results := [0] } := by
  rw [read.exec_eq (by rwa [State.nSess_init]), State.ctx_init, zero]
  rfl

end

/-! ## The statements -/

/-- Settles O44: the concatenation of the bytes weighs them, and 48 bits leave the upper ones 0. -/
theorem fieldIsLittleEndianUnsigned : Obligations.FieldIsLittleEndianUnsigned := by
  intro f o _
  have small := le48_lt f o
  exact ⟨toNat_le48 f o, Nat.le_sub_one_of_lt small, extractLsb'_high_of_lt small,
    BitVec.toInt_eq_toNat_of_lt (by omega)⟩

/-- Settles O45: every field begins at byte 5 or later. -/
theorem firstBytesDoNotDecode : Obligations.FirstBytesDoNotDecode := by
  intro f g _ _ agree
  have same := decodeFrame_congr agree
  exact ⟨same, fun ch => by simp only [sampleEvent, same]⟩

/-- Settles O46: the exponent's range is that of the leading 1, bits 0 to 47. -/
theorem decodedBitPattern : Obligations.DecodedBitPattern := by
  refine ⟨bits64_zero, fun c k nonzero small scale => ?_⟩
  obtain ⟨low, high, top, layout, fracRange⟩ := encodes_log2 nonzero small k
  have expRange : c.toNat.log2 + 1023 - k < 2 ^ 11 := by omega
  rw [exponent_of_layout layout fracRange expRange]
  exact ⟨_, low, high, top, layout, sign_of_layout layout fracRange expRange, by omega, by omega⟩

/-- Settles O47: the scales 1, 2^24 and 2^30 keep every encoding normal. -/
theorem decodedValueIsExact : Obligations.DecodedValueIsExact := by
  intro c small
  refine ⟨?_, f64Value_bits64 small (by decide), f64Value_bits64 small (by decide)⟩
  simpa using f64Value_bits64 small (k := 0) (by decide)

/-- Settles O48: the value is the code over 2^24, so bit 47 is worth 2^23. -/
theorem bitFortySevenIsNotASign : Obligations.BitFortySevenIsNotASign := by
  refine ⟨fun c low small => ⟨_, f64Value_bits64 small (by decide), ?low, ?high⟩, by decide, ?topBit⟩
  case low =>
    have : (2 ^ 47 : Rat) ≤ c.toNat := by exact_mod_cast low
    linarith
  case high =>
    have : (c.toNat : Rat) < 2 ^ 48 := by exact_mod_cast small
    linarith
  case topBit =>
    have value : (0x800000000000 : Res).toNat = 2 ^ 47 := rfl
    rw [f64Value_bits64 (by decide) (by decide), value]
    norm_num

/-- Settles O49: each read is one row of R63 and returns one value of its session's context. -/
theorem decReadRules : Obligations.DecReadRules := by
  refine ⟨fun ch => ⟨mkWord_session 4 0 ch, mkWord_session 4 1 ch, mkWord_session 4 2 ch, mkWord_session 4 3 ch,
      mkWord_session 4 4 ch, mkWord_session 4 5 ch, mkWord_session 4 6 ch⟩,
    fun w low high field => ?unused, fun ch s outside i hi => ?badCh, fun ch s inRange => ?reads,
    fun n c ch inRange => ?reset, fun ch s inv inRange => ?codes⟩
  case unused =>
    obtain ⟨r, row, opcode⟩ := decRow_of_opcode _ low high
    obtain ⟨compared, zero⟩ := decRows_imm r row
    exact unusedFieldRaises_of_field (List.mem_append_right _ row) opcode field compared zero
  case badCh =>
    have session : i.session? = some ch := by fin_cases hi <;> rfl
    exact exec_badCh session outside
  case reads =>
    exact ⟨(sessionRead_decRdvc ch).exec_eq inRange, (sessionRead_decRdic ch).exec_eq inRange,
      (sessionRead_decRdwc ch).exec_eq inRange, (sessionRead_decRdvf ch).exec_eq inRange,
      (sessionRead_decRdif ch).exec_eq inRange, (sessionRead_decRdwf ch).exec_eq inRange,
      (sessionRead_decRdcnt ch).exec_eq inRange⟩
  case reset =>
    simp only [List.forall_mem_cons]
    exact ⟨(sessionRead_decRdvc ch).exec_init c inRange rfl, (sessionRead_decRdic ch).exec_init c inRange rfl,
      (sessionRead_decRdwc ch).exec_init c inRange rfl, (sessionRead_decRdvf ch).exec_init c inRange rfl,
      (sessionRead_decRdif ch).exec_init c inRange rfl, (sessionRead_decRdwf ch).exec_init c inRange rfl,
      (sessionRead_decRdcnt ch).exec_init c inRange rfl, nofun⟩
  case codes =>
    have legal := inv.contexts _ (s.ctx_mem inRange)
    exact ⟨extractLsb'_high_of_lt legal.vc, extractLsb'_high_of_lt legal.ic, extractLsb'_high_of_lt legal.wc⟩

end Sys2Proof.Machine
end

section
/-! The system operations (44_system.md): their words, errors and next states (R180 to R182). -/

namespace Sys2Proof.Machine

/-! ## Words that misuse a field (R66) -/

/-- A system operation has no operand: its row compares all 24 bits below the codes with 0. -/
theorem sysRows_below_codes : ∀ r ∈ sysRows,
    r.mask.extractLsb' 0 24 = BitVec.allOnes 24 ∧ r.pat.extractLsb' 0 24 = 0 := by
  simp only [sysRows, List.forall_mem_cons]
  exact ⟨by decide, by decide, by decide, nofun⟩

theorem unusedFieldRaises_of_sysRow {w : Word} {r : Row} (row : r ∈ sysRows) (opcode : opcodeOf w = r.unit ++ r.func)
    (nonzero : w.extractLsb' 0 24 ≠ 0) : UnusedFieldRaises w := by
  obtain ⟨compared, zero⟩ := sysRows_below_codes r row
  have listed : r ∈ opcodeTable := by simp only [opcodeTable, List.mem_append, row, true_or]
  exact unusedFieldRaises_of_field listed opcode nonzero compared zero

/-! ## `STATUS` as `SYS.RDSTAT` returns it (R180) -/

/-- The sticky bits as a number, each put in its place by OR. -/
theorem toNat_sticky_eq_or : ∀ sticky : BitVec 4, sticky.toNat =
    ((sticky.getLsbD 0).toNat ||| (sticky.getLsbD 1).toNat <<< 1 ||| (sticky.getLsbD 2).toNat <<< 2 |||
      (sticky.getLsbD 3).toNat <<< 3) := by decide

/-- The fields of `STATUS`, each put in its place by OR. -/
theorem State.toNat_status_eq_or (s : State) : s.status.toNat =
    ((s.sticky.getLsbD 0).toNat ||| (s.sticky.getLsbD 1).toNat <<< 1 ||| (s.sticky.getLsbD 2).toNat <<< 2 |||
      (s.sticky.getLsbD 3).toNat <<< 3 ||| s.lastErr.toNat <<< 8 ||| s.encOpen.toNat <<< 16) := by
  have fields : s.status.toNat = s.encOpen.toNat <<< 16 ||| s.lastErr.toNat <<< 8 ||| s.sticky.toNat := by
    simp only [State.status, flag, BitVec.toNat_append, BitVec.toNat_ofBool, BitVec.toNat_ofNat, Nat.zero_mod,
      Nat.zero_shiftLeft, Nat.zero_or, Nat.or_zero, Nat.shiftLeft_or_distrib, ← Nat.shiftLeft_add]
  rw [fields, ← toNat_sticky_eq_or, Nat.or_comm, Nat.or_comm (_ <<< 16), Nat.or_assoc]

/-! ## The obligations -/

/-- Settles O21: `SYS.NOP` is none of the four operations that can emit, so no full stream holds it. -/
theorem sysNopRule : Obligations.SysNopRule := by
  refine ⟨by decide, fun _ opcode field => ?unused, fun _ => rfl, fun s => ?held⟩
  case unused =>
    exact unusedFieldRaises_of_sysRow (r := sysRows[0]) (List.getElem_mem _) (opcode.trans (by decide)) field
  case held =>
    obtain ⟨-, -, emitsNothing, -, -⟩ := holdOnlyForLackOfRoom
    rw [held_encode]
    exact emitsNothing .sysNop s nofun nofun fun _ _ => ⟨nofun, nofun⟩

/-- Settles O22: `SYS.RDSTAT` returns `STATUS`, and R180's formula is its fields put in their places. -/
theorem sysRdstatRule : Obligations.SysRdstatRule := by
  refine ⟨by decide, fun _ opcode field => ?unused, fun s => ?next⟩
  case unused =>
    exact unusedFieldRaises_of_sysRow (r := sysRows[1]) (List.getElem_mem _) (opcode.trans (by decide)) field
  case next =>
    rw [← s.toNat_status_eq_or, BitVec.ofNat_toNat]
    rfl

/-- Settles O23: `SYS.CLRSTAT` writes the sticky bits, `LAST_ERR` and its result, by definition. -/
theorem sysClrstatRule : Obligations.SysClrstatRule := by
  refine ⟨by decide, fun _ opcode field => ?unused, fun _ => rfl⟩
  case unused =>
    exact unusedFieldRaises_of_sysRow (r := sysRows[2]) (List.getElem_mem _) (opcode.trans (by decide)) field

end Sys2Proof.Machine
end

section
/-! The errors (60_exceptions.md): the checks an operation can fail and what it does then (R190 to R193), and that every
word and every step has an outcome (R195, R196). -/

namespace Sys2Proof.Machine

/-! ## The checks of a legal word (R191) -/

/-- Operation `i` fails the check of R191 for the error `e` in state `s`. No legal word is `E_ILLEGAL`. -/
inductive FailsCheck (i : Instr) (s : State) : ErrCode → Prop where
  | badCh (ch : Byte) (op : i.session? = some ch) (absent : s.nSess ≤ ch.toNat) : FailsCheck i s .badCh
  | encBusy (len : BitVec 16) (op : i = .encHdr len) (opened : s.encOpen = true) : FailsCheck i s .encBusy
  | encIdle (b : Byte) (op : i = .encByte b) (idle : s.encOpen = false) : FailsCheck i s .encIdle

section
variable {i : Instr} {s t : State} {e : ErrCode}

theorem exec_of_failsCheck (fails : FailsCheck i s e) : exec i s = .next (s.raise e) := by
  cases fails with
  | badCh ch op absent => exact exec_badCh op absent
  | encBusy len op opened => rw [op, exec_encHdr_busy len opened]
  | encIdle b op idle => rw [op, exec_encByte_idle b idle]

theorem txNeed_of_failsCheck (fails : FailsCheck i s e) : txNeed i s = 0 := by
  cases fails with
  | badCh ch op absent => exact txNeed_eq_zero s (by rintro len rfl; cases op) (by rintro b rfl; cases op)
  | encBusy len op opened => rw [op]; exact if_pos opened
  | encIdle b op idle => rw [op]; exact if_neg (by simp [idle])

theorem pushNeed_of_ge {ch : Byte} (absent : s.nSess ≤ ch.toNat) (completes : Session → Bool) :
    pushNeed ch s completes = 0 :=
  if_neg (Nat.not_lt.mpr absent)

theorem smpNeed_of_failsCheck (fails : FailsCheck i s e) : smpNeed i s = 0 := by
  cases fails with
  | badCh ch op absent =>
    cases i with
    | rsmFirst | rsmNext => cases op; exact pushNeed_of_ge absent _
    | _ => rfl
  | encBusy len op | encIdle b op => rw [op]; rfl

/-- An error is never a hold (R192). -/
theorem heldInstr_of_failsCheck (fails : FailsCheck i s e) : heldInstr i s = false := by
  rw [← Bool.not_eq_true, heldInstr_iff, txNeed_of_failsCheck fails, smpNeed_of_failsCheck fails]
  simp

/-! ## What an operation does to the error fields (R190) -/

/-- What operation `i` does to the error fields of state `s`: an error comes with the check that failed. -/
inductive ErrorEffect (i : Instr) (s : State) : State → Prop where
  | kept {t : State} (sticky : t.sticky = s.sticky) (lastErr : t.lastErr = s.lastErr) : ErrorEffect i s t
  | cleared (op : i = .sysClrstat) : ErrorEffect i s (s.clearErrors.ret 0)
  | raised (e : ErrCode) (fails : FailsCheck i s e) : ErrorEffect i s (s.raise e)

/-- Neither an error nor `SYS.CLRSTAT` emits a byte. -/
theorem errorEffect_of_emits (h : exec i s = .next t) (emits : s.tx.length < t.tx.length) : ErrorEffect i s t := by
  obtain ⟨sticky, lastErr⟩ | ⟨e, rfl⟩ | ⟨-, rfl⟩ := (opEffect_of_exec h).error_fields
  · exact .kept sticky lastErr
  · exact absurd emits (Nat.lt_irrefl _)
  · exact absurd emits (Nat.lt_irrefl _)

theorem errorEffect_of_encHdr {len : BitVec 16} (h : exec (.encHdr len) s = .next t) :
    ErrorEffect (.encHdr len) s t := by
  cases ho : s.encOpen with
  | true =>
    rw [exec_encHdr_busy len ho] at h
    cases h
    exact .raised .encBusy (.encBusy len rfl ho)
  | false =>
    refine errorEffect_of_emits h ?_
    rw [encHdr_emits ho h]
    split <;> omega

theorem errorEffect_of_encByte {b : Byte} (h : exec (.encByte b) s = .next t) : ErrorEffect (.encByte b) s t := by
  cases ho : s.encOpen with
  | false =>
    rw [exec_encByte_idle b ho] at h
    cases h
    exact .raised .encIdle (.encIdle b rfl ho)
  | true =>
    refine errorEffect_of_emits h ?_
    rw [encByte_emits ho h]
    split <;> omega

/-- A session operation whose body leaves the error fields alone can only be `E_BADCH`. -/
theorem errorEffect_of_session {ch : Byte} {k : Session → State} (op : i.session? = some ch)
    (h : withSession ch s k = .next t) (body : ∀ c, (k c).sticky = s.sticky ∧ (k c).lastErr = s.lastErr) :
    ErrorEffect i s t := by
  by_cases inRange : ch.toNat < s.nSess
  · rw [withSession_of_lt k inRange] at h
    cases h
    obtain ⟨sticky, lastErr⟩ := body (s.ctx ch)
    exact .kept sticky lastErr
  · have absent := Nat.le_of_not_lt inRange
    rw [withSession_of_ge k absent] at h
    cases h
    exact .raised .badCh (.badCh ch op absent)

theorem rsmPush_error_fields (ch : Byte) (c : Session) (b : Byte) (s : State) :
    (rsmPush ch c b s).sticky = s.sticky ∧ (rsmPush ch c b s).lastErr = s.lastErr := by
  obtain ⟨c', smp, h⟩ := rsmPush_eq_setCtx ch c b s
  rw [h]
  exact ⟨rfl, rfl⟩

theorem errorEffect_of_exec (h : exec i s = .next t) : ErrorEffect i s t := by
  cases i with
  | sysNop | sysRdstat | crcClr | crcByte | crcRd | encAbort | encRd => cases h; exact .kept rfl rfl
  | sysClrstat => cases h; exact .cleared rfl
  | encHdr len => exact errorEffect_of_encHdr h
  | encByte b => exact errorEffect_of_encByte h
  | rsmFirst ch b =>
    simp only [exec, execRsmFirst] at h
    exact errorEffect_of_session rfl h fun c => rsmPush_error_fields ch (c.startChunk b) b s
  | rsmNext ch b =>
    simp only [exec, execRsmNext] at h
    refine errorEffect_of_session rfl h fun c => ?_
    cases c.drop with
    | false => exact rsmPush_error_fields ch c b s
    | true => exact ⟨rfl, rfl⟩
  | rsmClr | rsmRd | rsmRdbuf | decRdvc | decRdic | decRdwc | decRdvf | decRdif | decRdwf | decRdcnt =>
    simp only [exec, execRsmClr, execRsmRd, execRsmRdbuf, execDecRdvc, execDecRdic, execDecRdwc, execDecRdvf,
      execDecRdif, execDecRdwf, execDecRdcnt] at h
    exact errorEffect_of_session rfl h fun _ => ⟨rfl, rfl⟩

end

/-! ## Words that raise an error (R191, R192) -/

/-- A legal word whose operation fails a check raises that error. -/
theorem raises_of_failsCheck {w : Word} {i : Instr} {s : State} {e : ErrCode} (legal : decode w = .ok i)
    (fails : FailsCheck i s e) : Raises e.bit e.code w s := by
  constructor
  · simp only [held, legal, heldInstr_of_failsCheck fails]
  · rw [accept_of_ok s legal, exec_of_failsCheck fails]
    rfl

/-- The rows of `RSM` and `DEC` build operations on the session in the word's `CH` (30_encoding.md R64, R65). -/
theorem session?_build (w : Word) : ∀ r ∈ opcodeTable, r.unit = 3 ∨ r.unit = 4 →
    (r.build w).session? = some (chOf w) := by
  simp [opcodeTable, sysRows, crcRows, encRows, rsmRows, decRows, Instr.session?]

/-! ## The statements -/

/-- Settles O7: the cases of `decode`, and the outcomes of an operation and of a step. -/
theorem everyWordHasAnOutcome : Obligations.EveryWordHasAnOutcome := by
  refine ⟨fun w s => ?word, fun s => ?step⟩
  case word =>
    cases hd : decode w with
    | ok i =>
      obtain ⟨t, ht, -⟩ := exec_effect i s
      exact .inl ⟨i, t, rfl, accept_of_ok s hd, ht⟩
    | illegal why => exact .inr ⟨why, rfl, accept_of_illegal s hd⟩
  case step =>
    obtain ⟨t, ht, -⟩ := step_effect s
    exact ⟨t, ht⟩

/-- Settles O9: the first two checks make a word illegal, and the operation of a legal word changes the error fields
only by failing one of the others or by clearing them. -/
theorem errorChecksInOrder : Obligations.ErrorChecksInOrder := by
  intro w s
  obtain ⟨-, -, raises⟩ := illegalWordsExactly
  refine ⟨fun unassigned => ?_, fun r row mismatch => ?_, fun r row hmatch unit absent => ?badCh,
    fun len legal opened => raises_of_failsCheck legal (.encBusy len rfl opened),
    fun b legal idle => raises_of_failsCheck legal (.encIdle b rfl idle), fun t h changed => ?changes⟩
  · exact raises w _ s (decode_eq_unassigned_iff.mpr unassigned)
  · exact raises w _ s (decode_eq_unusedField_iff.mpr ⟨r, row, mismatch⟩)
  case badCh =>
    obtain ⟨listed, -⟩ := rowOf_eq_some_iff.mp row
    exact raises_of_failsCheck (decode_of_matches listed hmatch)
      (.badCh (chOf w) (session?_build w r listed unit) absent)
  case changes =>
    cases hd : decode w with
    | illegal why => exact .inr (.inl (raises w why s hd))
    | ok i =>
      rw [accept_of_ok s hd] at h
      cases errorEffect_of_exec h with
      | kept sticky lastErr => exact absurd (Prod.ext sticky lastErr) changed
      | cleared op => exact .inl (congrArg Decoded.ok op)
      | raised e fails =>
        have error := raises_of_failsCheck hd fails
        cases fails with
        | badCh => exact .inr (.inr (.inl error))
        | encBusy => exact .inr (.inr (.inr (.inl error)))
        | encIdle => exact .inr (.inr (.inr (.inr error)))

/-- Settles O10: the table of R190, and what an operation does to the error fields. -/
theorem errorsOnlyFromTheirOperations : Obligations.ErrorsOnlyFromTheirOperations := by
  refine ⟨⟨rfl, rfl, rfl, rfl⟩, ⟨rfl, rfl, rfl, rfl⟩, fun i s t h => ?_⟩
  cases errorEffect_of_exec h with
  | kept sticky lastErr => exact .inl ⟨sticky, lastErr⟩
  | cleared op => exact .inr (.inl ⟨op, rfl, rfl⟩)
  | raised e fails =>
    cases fails with
    | badCh ch op absent => exact .inr (.inr (.inl ⟨⟨ch, op, absent⟩, rfl⟩))
    | encBusy len op opened => exact .inr (.inr (.inr (.inl ⟨⟨len, op⟩, opened, rfl⟩)))
    | encIdle b op idle => exact .inr (.inr (.inr (.inr ⟨⟨b, op⟩, idle, rfl⟩)))

end Sys2Proof.Machine
end

section
/-! Reset (70_reset_and_hazards.md R210, R211), draining the streams (R217) and `OP_LATENCY` (R220). -/

namespace Sys2Proof.Machine

/-! ## A step in which reset is asserted -/

theorem step_reset {s : State} {again : Bool} {more : List HostAct} (act : s.acts = .reset again :: more) :
    step s = .next (assertReset again s.popAct) := by
  simp only [step, portStep, act]

/-- The two choices of the host differ only in the word on the port (R211). -/
theorem assertReset_eq (again : Bool) (s : State) :
    assertReset again s = { s.resetBlock with ops := if again then s.ops else s.ops.drop 1 } := by
  cases again <;> rfl

/-- Settles O16: every context is replaced by `Session.reset`, and the port accepts nothing. -/
theorem resetWinsAndClears : Obligations.ResetWinsAndClears := by
  intro s again more act
  have contexts : s.sess.map (fun _ => Session.reset) = List.replicate s.nSess Session.reset := List.map_const' ..
  rw [step_reset act, assertReset_eq]
  simp only [State.resetBlock, State.popAct, act, contexts]
  rfl

/-! ## Runs in which the host drains a stream, or takes nothing (R217) -/

theorem core_run_of_step_self {s : State} (fixed : step s = .next s) (n : Nat) : core.run n s = .next s := by
  induction n with
  | zero => rfl
  | succ n ih => rw [core_run_succ n fixed, ih]

/-- What is left of `s` in `t` when the host has taken `bytes` bytes and `events` events and has `more` left to do. -/
structure LeftAfterTakes (bytes events : Nat) (more : List HostAct) (s t : State) : Prop where
  cfg : t.cfg = s.cfg
  ops : t.ops = s.ops
  acts : t.acts = more
  tx : t.tx = s.tx.drop bytes
  smp : t.smp = s.smp.drop events

/-- A run in which the host only takes, from the two streams in any order, leaves the word on the port and takes from
each stream as many entries as there are takes of it. -/
theorem core_run_takes {taking more : List HostAct} (takes : ∀ a ∈ taking, a = .takeTx ∨ a = .takeSmp) {s : State}
    (acts : s.acts = taking ++ more) :
    ∃ t, core.run taking.length s = .next t ∧
      LeftAfterTakes (taking.count .takeTx) (taking.count .takeSmp) more s t := by
  induction taking generalizing s with
  | nil => exact ⟨s, rfl, rfl, rfl, acts, rfl, rfl⟩
  | cons a taking ih =>
    obtain ⟨take, others⟩ := List.forall_mem_cons.mp takes
    have left : s.popAct.acts = taking ++ more := by rw [State.popAct_acts, acts]; rfl
    rcases take with rfl | rfl
    · obtain ⟨t, run, after⟩ := ih others (s := s.popAct.takeTx) left
      refine ⟨t, (core_run_succ _ (step_takeTx acts)).trans run, { after with tx := ?_, smp := ?_ }⟩
      · rw [after.tx, State.takeTx_tx, List.drop_drop, List.count_cons_self, Nat.add_comm]; rfl
      · rw [after.smp, List.count_cons_of_ne (by decide)]; rfl
    · obtain ⟨t, run, after⟩ := ih others (s := s.popAct.takeSmp) left
      refine ⟨t, (core_run_succ _ (step_takeSmp acts)).trans run, { after with tx := ?_, smp := ?_ }⟩
      · rw [after.tx, List.count_cons_of_ne (by decide)]; rfl
      · rw [after.smp, State.takeSmp_smp, List.drop_drop, List.count_cons_self, Nat.add_comm]; rfl

/-- Takes in the number of entries the streams hold, bytes first. -/
def drainActs (s : State) : List HostAct :=
  List.replicate s.tx.length .takeTx ++ List.replicate s.smp.length .takeSmp

theorem drainActs_takes (s : State) : ∀ a ∈ drainActs s, a = .takeTx ∨ a = .takeSmp := by
  simp only [drainActs, List.mem_append, List.mem_replicate]
  tauto

theorem drainActs_length (s : State) : (drainActs s).length = s.tx.length + s.smp.length := by
  simp [drainActs]

theorem drainActs_count (s : State) :
    (drainActs s).count .takeTx = s.tx.length ∧ (drainActs s).count .takeSmp = s.smp.length := by
  simp [drainActs, List.count_replicate]

/-- As many takes as the streams hold leave them empty. -/
theorem core_run_drains {s : State} (takes : s.acts = drainActs s) :
    ∃ t, core.run (s.tx.length + s.smp.length) s = .next t ∧ t.cfg = s.cfg ∧ t.ops = s.ops ∧ t.acts = [] ∧
      t.tx = [] ∧ t.smp = [] := by
  obtain ⟨t, run, after⟩ := core_run_takes (more := []) (drainActs_takes s) (takes.trans (List.append_nil _).symm)
  obtain ⟨txCount, smpCount⟩ := drainActs_count s
  obtain ⟨cfg, ops, acts, tx, smp⟩ := after
  rw [drainActs_length] at run
  rw [txCount, List.drop_length] at tx
  rw [smpCount, List.drop_length] at smp
  exact ⟨t, run, cfg, ops, acts, tx, smp⟩

/-! ## The room of an empty stream -/

theorem held_of_ok {w : Word} {i : Instr} (s : State) (h : decode w = .ok i) : held w s = heldInstr i s := by
  simp only [held, h]

theorem config_legal_iff (c : Config) :
    c.legal = true ↔ (∀ d, c.txDepth = some d → 4 ≤ d) ∧ (∀ d, c.smpDepth = some d → 1 ≤ d) := by
  cases htx : c.txDepth <;> cases hsmp : c.smpDepth <;> simp [Config.legal, htx, hsmp]

/-- No operation waits for more than the header and CRC byte of an empty payload (20_memory.md R46). -/
theorem txNeed_le (i : Instr) (s : State) : txNeed i s ≤ 4 := by
  cases i with
  | encHdr len => simp only [txNeed, encHdrNeed]; split_ifs <;> decide
  | encByte b => simp only [txNeed, encByteNeed]; split_ifs <;> decide
  | _ => exact Nat.zero_le 4

theorem smpNeed_le (i : Instr) (s : State) : smpNeed i s ≤ 1 := by
  cases i with
  | rsmFirst ch b | rsmNext ch b => simp only [smpNeed, pushNeed]; split_ifs <;> decide
  | _ => exact Nat.zero_le 1

/-- Empty streams of the capacities of 00_scope.md R8 hold no word. -/
theorem held_of_drained (w : Word) {s : State} (legal : s.cfg.legal = true) (tx : s.tx = []) (smp : s.smp = []) :
    held w s = false := by
  cases hd : decode w with
  | illegal why => exact held_of_illegal s hd
  | ok i =>
    obtain ⟨txRoom, smpRoom⟩ := (config_legal_iff s.cfg).mp legal
    rw [held_of_ok s hd, ← Bool.not_eq_true, heldInstr_iff, tx, smp]
    rintro (⟨d, depth, -, full⟩ | ⟨d, depth, -, full⟩)
    · exact absurd full (Nat.not_lt.mpr (by simpa using (txNeed_le i s).trans (txRoom d depth)))
    · exact absurd full (Nat.not_lt.mpr (by simpa using (smpNeed_le i s).trans (smpRoom d depth)))

/-- Settles O18: the takes leave both streams empty, which a legal capacity gives room for any word; a held step is the
same state again. -/
theorem drainingReleasesTheHold : Obligations.DrainingReleasesTheHold := by
  obtain ⟨-, -, -, -, hold⟩ := holdOnlyForLackOfRoom
  refine ⟨fun s w rest inv offered takes => ?_, fun s w rest offered idle waits =>
    core_run_of_step_self (hold w rest s idle offered waits)⟩
  obtain ⟨t, run, cfg, ops, acts, tx, smp⟩ := core_run_drains takes
  have legal : t.cfg.legal = true := by rw [cfg]; exact inv.config
  exact ⟨t, run, ops.trans offered, acts, held_of_drained w legal tx smp⟩

/-! ## Another `OP_LATENCY` (R220) -/

/-- The state of the instance with `OP_LATENCY` `n`. -/
def State.setLatency (n : Nat) (s : State) : State := { s with cfg := { s.cfg with opLatency := n } }

theorem held_setLatency (w : Word) (n : Nat) (s : State) : held w (s.setLatency n) = held w s := by
  cases hd : decode w with
  | illegal why => rw [held_of_illegal s hd, held_of_illegal _ hd]
  | ok i =>
    rw [held_of_ok s hd, held_of_ok _ hd]
    cases i <;> rfl

theorem exec_setLatency (i : Instr) (n : Nat) (s : State) :
    exec i (s.setLatency n) = mapNext (State.setLatency n) (exec i s) := by
  obtain ⟨t, ht, he⟩ := exec_opEffect i s
  obtain ⟨hcfg, hops, hacts, htx, hsmp⟩ := he.host_eq
  refine (exec_outside i s (s.setLatency n).cfg s.ops s.acts s.txTaken s.smpTaken).trans ?_
  rw [ht, State.setLatency, ← hcfg, ← hops, ← hacts, ← htx, ← hsmp]
  rfl

theorem accept_setLatency (w : Word) (n : Nat) (s : State) :
    accept w (s.setLatency n) = mapNext (State.setLatency n) (accept w s) := by
  cases hd : decode w with
  | illegal why => rw [accept_of_illegal s hd, accept_of_illegal _ hd]; rfl
  | ok i => rw [accept_of_ok s hd, accept_of_ok _ hd, exec_setLatency]

theorem step_setLatency_of_moves {s : State} {more : List HostAct}
    (moves : s.acts = [] ∧ more = [] ∨ s.acts = .operate :: more) (n : Nat) :
    step (s.setLatency n) = mapNext (State.setLatency n) (step s) := by
  cases hops : s.ops with
  | nil => rw [step_idle moves hops, step_idle (s := s.setLatency n) moves hops]; rfl
  | cons w rest =>
    rw [step_eq_ite moves hops, step_eq_ite (s := s.setLatency n) moves hops, held_setLatency]
    cases held w s with
    | true => rfl
    | false => exact accept_setLatency w n { s with ops := rest, acts := more }

/-- Settles O19, by what the host does in the step: only a move of the port reads the parameters. -/
theorem latencyChangesNothing : Obligations.LatencyChangesNothing := by
  intro s n
  show step (s.setLatency n) = mapNext (State.setLatency n) (step s)
  cases act : s.acts with
  | nil => exact step_setLatency_of_moves (.inl ⟨act, rfl⟩) n
  | cons a more =>
    cases a with
    | operate => exact step_setLatency_of_moves (.inr act) n
    | takeTx => rw [step_takeTx act, step_takeTx (s := s.setLatency n) act]; rfl
    | takeSmp => rw [step_takeSmp act, step_takeSmp (s := s.setLatency n) act]; rfl
    | reset again =>
      rw [step_reset act, step_reset (s := s.setLatency n) act]
      cases again <;> rfl

end Sys2Proof.Machine
end
